-- ==== Sys2Proof/Word.lean ====
section
/-! DEFINITION. The word types of CFE8 (00_scope.md R5: every value is an unsigned number of a fixed width). -/

namespace Sys2Proof

/-- `u8` of 00_scope.md R5: register data, frame bytes, the checksum. -/
abbrev Byte := BitVec 8

/-- `u16` of 00_scope.md R5: the glossary's Word, "a 16-bit big-endian value". -/
abbrev Word := BitVec 16

/-- A register address, `ADDR_W` = 6 bits (00_scope.md R4, 20_memory.md R51). -/
abbrev Addr := BitVec 6

/-- A port transaction word, 15 bits (30_encoding.md R76). -/
abbrev PortWord := BitVec 15

end Sys2Proof
end

