-- ==== Sys2Proof/Syntax.lean ====
section
/-! DEFINITION. What can be asked of the block: the operations (30_encoding.md R72 to R74), the registers of the
map (20_memory.md R51), the port accesses (R54, R55) and the events that reach the block from outside. -/

namespace Sys2Proof

/-- One constructor for each row of spec/opcode_table.json. The legal operations have no operand fields (30_encoding.md
R70). The two illegal rows are ranges of control bytes and carry the fields of `CTRL8` (R71) that the row leaves open. -/
inductive Instr
  | nop
  | crcInit
  | crcByte
  | crcWord
  | encRd
  | encWr
  | decode
  | illegalReservedOp (op : BitVec 4)
  | illegalZ (z op : BitVec 4)
  deriving DecidableEq, Repr

/-- The registers named by the map of 20_memory.md R51. -/
inductive Reg
  | ctrl
  | status
  | crc
  | din
  | opcHi
  | opcLo
  | parHi
  | parLo
  | wcnt
  | rxlen
  | txlen
  | txb (i : Fin 5)
  | rxb (i : Fin 9)
  | wordHi (i : Fin 3)
  | wordLo (i : Fin 3)
  deriving DecidableEq, Repr

/-- One port access: 8 bits wide, at any 6-bit address (20_memory.md R54 to R57). -/
inductive Access
  | read (a : Addr)
  | write (a : Addr) (v : Byte)
  deriving DecidableEq, Repr

/-- The two port masters (20_memory.md R58). -/
inductive Master
  | host
  | busController
  deriving DecidableEq, Repr

/-- What reaches the block from outside: a port access by a master, or a new level of the reset input
(70_reset_and_hazards.md R180). -/
inductive Event
  | access (m : Master) (x : Access)
  | resetInput (asserted : Bool)
  deriving DecidableEq, Repr

end Sys2Proof
end

