-- ==== Sys2Proof/WellFormed.lean ====
section
/-! DEFINITION. Which terms of `Instr` stand for a control byte: the illegal rows of the opcode table are ranges, and
only the fields inside the range are well formed (30_encoding.md R73, R74). -/

namespace Sys2Proof

/-- A reserved OP is 0x7 to 0xF (30_encoding.md R73); the Z of the other illegal row is not 0 (R74). -/
def Instr.wellFormed : Instr → Bool
  | .nop => true
  | .crcInit => true
  | .crcByte => true
  | .crcWord => true
  | .encRd => true
  | .encWr => true
  | .decode => true
  | .illegalReservedOp op => decide (7 ≤ op.toNat)
  | .illegalZ z _ => decide (z ≠ 0)

/-- The operations that `raise ILLEGAL_OP` (42_control.md R141). -/
def Instr.isIllegal : Instr → Bool
  | .nop => false
  | .crcInit => false
  | .crcByte => false
  | .crcWord => false
  | .encRd => false
  | .encWr => false
  | .decode => false
  | .illegalReservedOp _ => true
  | .illegalZ _ _ => true

/-- A read transaction word carries 0x00 in DATA (30_encoding.md R76). -/
def PortWord.wellFormed (t : PortWord) : Bool :=
  t.getLsbD 14 || decide (t.extractLsb' 0 8 = 0)

end Sys2Proof
end

