-- ==== Sys2Proof/Decode.lean ====
section
/-! DEFINITION. Decoding and encoding: control bytes (30_encoding.md R71 to R74), port transaction words (R76), and
the rows of spec/opcode_table.json. -/

namespace Sys2Proof

/-- `Z`, bits 7:4 of `CTRL8` (30_encoding.md R71). -/
def fieldZ (v : Byte) : BitVec 4 := v.extractLsb' 4 4

/-- `OP`, bits 3:0 of `CTRL8` (30_encoding.md R71). -/
def fieldOp (v : Byte) : BitVec 4 := v.extractLsb' 0 4

/-- The operation a control byte selects. Every byte selects one: the 249 illegal bytes select an illegal row
(30_encoding.md R72 to R74). -/
def decodeByte (v : Byte) : Instr :=
  if fieldZ v = 0 then
    match (fieldOp v).toNat with
    | 0x0 => .nop
    | 0x1 => .crcInit
    | 0x2 => .crcByte
    | 0x3 => .crcWord
    | 0x4 => .encRd
    | 0x5 => .encWr
    | 0x6 => .decode
    | _ => .illegalReservedOp (fieldOp v)
  else .illegalZ (fieldZ v) (fieldOp v)

/-- The control byte of an operation, from the opcode map of 30_encoding.md R72 and the field layout of R71. -/
def encode : Instr → Byte
  | .nop => 0x00
  | .crcInit => 0x01
  | .crcByte => 0x02
  | .crcWord => 0x03
  | .encRd => 0x04
  | .encWr => 0x05
  | .decode => 0x06
  | .illegalReservedOp op => 0#4 ++ op
  | .illegalZ z op => z ++ op

/-- Why a list of bytes holds no operation. -/
inductive DecodeReject
  | noByte
  deriving DecidableEq, Repr

/-- The first operation of a list of control bytes, with the bytes after it: every operation has the same length, one
byte (30_encoding.md R70). -/
def decode : List Byte → Except DecodeReject (Instr × List Byte)
  | [] => .error .noByte
  | v :: rest => .ok (decodeByte v, rest)

/-- The control bytes of an operation: one (30_encoding.md R70). -/
def encodeBytes (i : Instr) : List Byte := [encode i]

/-- The control byte that stands in bits 7:0 of a table word of `nbits` bits (the bits above `nbits` are 0). -/
def ctrlByteOf (nbits w : Nat) : Byte := BitVec.ofNat 8 (w % 2 ^ nbits)

/-- The operation the decoder reads from an opcode-table word. The longest operation is one byte. -/
def decodeTableWord (nbits w : Nat) : Option Instr :=
  match decode [ctrlByteOf nbits w] with
  | .ok (i, _) => some i
  | .error _ => none

/-- The port access a transaction word names (30_encoding.md R76): WE is bit 14, ADDR bits 13:8, DATA bits 7:0. The DATA of
a read is not looked at (log 6). -/
def decodePortWord (t : PortWord) : Access :=
  if t.getLsbD 14 then .write (t.extractLsb' 8 6) (t.extractLsb' 0 8) else .read (t.extractLsb' 8 6)

/-- The transaction word of a port access (30_encoding.md R76): DATA is 0x00 in a read. -/
def encodePortWord : Access → PortWord
  | .write a v => 1#1 ++ a ++ v
  | .read a => 0#1 ++ a ++ 0#8

/-- A row of spec/opcode_table.json as the range of control bytes it covers (its `match` and `mask`). -/
structure OpcodeRow where
  mnemonic : String
  first : Nat
  last : Nat
  deriving DecidableEq, Repr

/-- The nine rows of spec/opcode_table.json. -/
def opcodeTable : List OpcodeRow :=
  [⟨"NOP", 0x00, 0x00⟩, ⟨"CRC_INIT", 0x01, 0x01⟩, ⟨"CRC_BYTE", 0x02, 0x02⟩, ⟨"CRC_WORD", 0x03, 0x03⟩,
   ⟨"ENC_RD", 0x04, 0x04⟩, ⟨"ENC_WR", 0x05, 0x05⟩, ⟨"DECODE", 0x06, 0x06⟩] ++
  [⟨"ILLEGAL__reserved_OP", 0x07, 0x0F⟩, ⟨"ILLEGAL__Z____0", 0x10, 0xFF⟩]

/-- Whether a row covers a control byte. -/
def OpcodeRow.covers (r : OpcodeRow) (v : Byte) : Bool := decide (r.first ≤ v.toNat ∧ v.toNat ≤ r.last)

/-- The mnemonic of an operation, as spec/opcode_table.json spells it. -/
def Instr.mnemonic : Instr → String
  | .nop => "NOP"
  | .crcInit => "CRC_INIT"
  | .crcByte => "CRC_BYTE"
  | .crcWord => "CRC_WORD"
  | .encRd => "ENC_RD"
  | .encWr => "ENC_WR"
  | .decode => "DECODE"
  | .illegalReservedOp _ => "ILLEGAL__reserved_OP"
  | .illegalZ _ _ => "ILLEGAL__Z____0"

end Sys2Proof
end

