-- ==== Sys2Proof/Config.lean ====
section
/-! DEFINITION. The parameters of CFE8 (00_scope.md R4): fixed values, none of them a free parameter.
`BUS_ADDR_FORM`, which R4 leaves open, belongs to the host's bus controller: host-level definitions take it as an
argument (92_eei_decisions.md D43). -/

namespace Sys2Proof.Config

/-- The block identifier (00_scope.md R1, 92_eei_decisions.md D1). -/
def blockId : String := "CFE8"

/-- The version: the source's edition (00_scope.md R1, 92_eei_decisions.md D1). -/
def version : String := "v7"

/-- `POLY`: the constant XORed in by 40_checksum.md R90. -/
def poly : Byte := 0x31

/-- `INIT`: the accumulator's initial value (40_checksum.md R92). -/
def init : Byte := 0xFF

/-- `WORD_BYTES`. -/
abbrev wordBytes : Nat := 2

/-- `GROUP_BYTES`: two word bytes and one checksum byte. -/
abbrev groupBytes : Nat := 3

/-- `MAX_WORDS`: the most words of a reply. -/
abbrev maxWords : Nat := 3

/-- `RX_CAP`: `MAX_WORDS * GROUP_BYTES`. -/
abbrev rxCap : Nat := 9

/-- `MAX_PARAMS`: the most parameter words of an outgoing frame. -/
abbrev maxParams : Nat := 1

/-- `TX_CAP`: two command bytes and one group. -/
abbrev txCap : Nat := 5

/-- `ADDR_W`. -/
abbrev addrW : Nat := 6

/-- `DATA_W`. -/
abbrev dataW : Nat := 8

/-- `OP_W`. -/
abbrev opW : Nat := 4

/-- `BUS_ADDR`: the sensor's 7-bit bus address, held by the host and not by the block. 93_implementation_defined.md U3 makes it
a parameter of the host model with this value as its default (log 16). -/
def busAddr : BitVec 7 := 0x62

/-- The data-ready mask of 70_reset_and_hazards.md R191 (the low 12 bits): a parameter of the host model with this value as its
default (93_implementation_defined.md U3; log 16). No definition of the block uses it. -/
def dataReadyMask : Word := 0x0FFF

end Sys2Proof.Config

namespace Sys2Proof

/-- `BUS_ADDR_FORM` of 00_scope.md R4, OPEN there: which form of the bus address the host's bus primitive expects. -/
inductive BusAddrForm
  | sevenBit
  | eightBit
  deriving DecidableEq, Repr

/-- The address byte handed to the bus primitive in either form (92_eei_decisions.md D43: 0x62 or 0xC4 for the default
address; log 15, log 16). -/
def BusAddrForm.address (form : BusAddrForm) (addr : BitVec 7 := Config.busAddr) : Byte :=
  match form with
  | .sevenBit => addr.zeroExtend 8
  | .eightBit => addr.zeroExtend 8 <<< 1

end Sys2Proof
end

