-- ==== Sys2Proof/Machine/State.lean ====
section
/-! DEFINITION. The state of CFE8: the record of 10_state.md R20, and beside it the block's pending inputs, its reset
input and the value its port last returned. All of it is plain data. -/

namespace Sys2Proof.Machine

/-- The result codes of STATUS.RES (60_exceptions.md R150). -/
inductive Result
  | ok
  | crcMismatch
  | lengthError
  | illegalOp
  deriving DecidableEq, Repr

/-- The fields of STATUS (10_state.md R26). Bit 7 is reserved and holds no state (R35). -/
structure Status where
  res : Result
  eidx : BitVec 2
  dvalid : Bool
  dcnt : BitVec 2
  deriving DecidableEq, Repr

/-- The architectural state of the block: exactly the record of 10_state.md R20. OPC, PAR and the halves of WORD are
computed views (R27, R28, R34). CTRL holds no state (R23). -/
structure Block where
  status : Status
  crc : Byte
  din : Byte
  opcHi : Byte
  opcLo : Byte
  parHi : Byte
  parLo : Byte
  wcnt : BitVec 2
  rxlen : BitVec 4
  txlen : BitVec 3
  txb : Vector Byte 5
  rxb : Vector Byte 9
  word : Vector Word 3
  deriving DecidableEq, Repr

/-- The block's state and its surroundings. `port` lists the events the port has not accepted yet, in the order in which
it will accept them (20_memory.md R59; log 1). `resetAsserted` is the level of the reset input (70_reset_and_hazards.md R180;
log 4). `rdata` is the value the last accepted event returned, none unless it was a read (20_memory.md R54; log 3). -/
structure State where
  block : Block
  resetAsserted : Bool
  port : List Event
  rdata : Option Byte
  deriving DecidableEq, Repr

/-- No fault exists: "CFE8 has no trap mechanism", and "The block never stops or refuses further accesses after a failure"
(60_exceptions.md R156). Safe: there is no constructor to raise. -/
inductive Fault
  deriving DecidableEq, Repr

/-- Why an operation has no meaning. -/
inductive Refusal
  /-- Raised by an arm of `exec` whose operation is not modelled. No arm raises it. Safe: the machine would stop. -/
  | notModelled (mnemonic : String)
  deriving DecidableEq, Repr

/-- The reset value of every state element (70_reset_and_hazards.md R181). -/
def Block.reset : Block where
  status := { res := .ok, eidx := 0, dvalid := false, dcnt := 0 }
  crc := Config.init
  din := 0
  opcHi := 0
  opcLo := 0
  parHi := 0
  parLo := 0
  wcnt := 0
  rxlen := 0
  txlen := 0
  txb := Vector.replicate 5 0
  rxb := Vector.replicate 9 0
  word := Vector.replicate 3 0

/-- The machine right after reset: every element as 70_reset_and_hazards.md R181 says, the reset input released, no event
pending and no read returned (log 1, log 3, log 4). -/
def State.reset : State where
  block := Block.reset
  resetAsserted := false
  port := []
  rdata := none

end Sys2Proof.Machine
end

