-- ==== Sys2Proof/Machine/Flags.lean ====
section
/-! DEFINITION. STATUS, the block's only flag register: its codes, its byte, and what writes it (10_state.md R26,
60_exceptions.md R150). -/

namespace Sys2Proof.Machine

/-- The code of a result (60_exceptions.md R150). -/
def Result.code : Result → BitVec 2
  | .ok => 0
  | .crcMismatch => 1
  | .lengthError => 2
  | .illegalOp => 3

/-- STATUS as the port reads it (10_state.md R26): bit 7 is 0, DCNT 6:5, DVALID 4, EIDX 3:2, RES 1:0. -/
def Status.toByte (f : Status) : Byte :=
  0#1 ++ f.dcnt ++ BitVec.ofBool f.dvalid ++ f.eidx ++ f.res.code

/-- `raise <Result>(info)` of 00_scope.md R6: the operation ends with a result code and its info. It transfers no control
(60_exceptions.md R156). An operation that completes ends the same way with OK and 0 (60_exceptions.md R150). -/
def raise (r : Result) (info : BitVec 2) (b : Block) : Block :=
  { b with status := { b.status with res := r, eidx := info } }

/-- `STATUS.RES <- OK; STATUS.EIDX <- 0`. -/
def succeed (b : Block) : Block := raise .ok 0 b

/-- `STATUS.DVALID` and `STATUS.DCNT`, which DECODE alone writes (60_exceptions.md R155). -/
def setDecoded (valid : Bool) (n : BitVec 2) (b : Block) : Block :=
  { b with status := { b.status with dvalid := valid, dcnt := n } }

end Sys2Proof.Machine
end

