-- ==== Sys2Proof/Machine/Bits.lean ====
section
/-! DEFINITION. Byte order and bit fields (00_scope.md R5, 20_memory.md R52). -/

namespace Sys2Proof.Machine

/-- `w.hi = w[15:8]` (00_scope.md R5). -/
def hiByte (w : Word) : Byte := w.extractLsb' 8 8

/-- `w.lo = w[7:0]` (00_scope.md R5). -/
def loByte (w : Word) : Byte := w.extractLsb' 0 8

/-- `hi ++ lo`: `hi` in bits 15:8 (00_scope.md R5; big-endian, 20_memory.md R52). -/
def wordOf (hi lo : Byte) : Word := hi ++ lo

/-- `w.hi` and then `w.lo`: the order of a word's bytes in a frame (20_memory.md R52). -/
def wordBytes (w : Word) : List Byte := [hiByte w, loByte w]

end Sys2Proof.Machine
end

