-- ==== Sys2Proof/Machine/Operands.lean ====
section
/-! DEFINITION. The operands of the operations, assembled from registers (30_encoding.md R75), and the groups of a
reply (41_frame_codec.md R111, R117). -/

namespace Sys2Proof.Machine

/-- `OPC = OPC_HI ++ OPC_LO` (10_state.md R27). -/
def Block.opc (b : Block) : Word := wordOf b.opcHi b.opcLo

/-- `PAR = PAR_HI ++ PAR_LO` (10_state.md R28). -/
def Block.par (b : Block) : Word := wordOf b.parHi b.parLo

/-- `n = WCNT[1:0]`, zero-extended (30_encoding.md R75). -/
def Block.wordCount (b : Block) : Nat := b.wcnt.toNat

/-- `len = RXLEN[3:0]`, zero-extended (30_encoding.md R75). -/
def Block.replyLength (b : Block) : Nat := b.rxlen.toNat

/-- `raw = [RXB0, ..., RXB(len-1)]`, meant for `len <= 9` (30_encoding.md R75). -/
def Block.raw (b : Block) : List Byte := b.rxb.toList.take b.replyLength

/-- `RXB[3i]`, the high byte of group `i` (41_frame_codec.md R114). -/
def Block.groupHi (b : Block) (i : Fin 3) : Byte := b.rxb[3 * i.val]

/-- `RXB[3i+1]`, the low byte of group `i` (41_frame_codec.md R114). -/
def Block.groupLo (b : Block) (i : Fin 3) : Byte := b.rxb[3 * i.val + 1]

/-- `RXB[3i+2]`, the checksum byte of group `i` (41_frame_codec.md R114). -/
def Block.groupSum (b : Block) (i : Fin 3) : Byte := b.rxb[3 * i.val + 2]

/-- The big-endian word of group `i` (41_frame_codec.md R115). -/
def Block.groupWord (b : Block) (i : Fin 3) : Word := wordOf (b.groupHi i) (b.groupLo i)

/-- Group `i` passes when its third byte is the checksum of its first two (41_frame_codec.md R117). -/
def Block.groupOk (b : Block) (i : Fin 3) : Bool := groupCheck (b.groupHi i) (b.groupLo i) (b.groupSum i)

/-- The first group among those asked for that fails, scanned from index 0 (41_frame_codec.md R117). -/
def Block.firstBadGroup (b : Block) : Option (Fin 3) :=
  [0, 1, 2].find? fun i : Fin 3 => decide (i.val < b.wordCount) && !b.groupOk i

end Sys2Proof.Machine
end

