-- ==== Sys2Proof/Machine/RegMap.lean ====
section
/-! DEFINITION. The register map (20_memory.md R51): which register stands at which address. -/

namespace Sys2Proof.Machine

/-- The address of a register (20_memory.md R51). -/
def addrOf : Reg → Addr
  | .ctrl => 0x00
  | .status => 0x01
  | .crc => 0x02
  | .din => 0x03
  | .opcHi => 0x04
  | .opcLo => 0x05
  | .parHi => 0x06
  | .parLo => 0x07
  | .wcnt => 0x08
  | .rxlen => 0x09
  | .txlen => 0x0A
  | .txb i => BitVec.ofNat 6 (0x10 + i.val)
  | .rxb i => BitVec.ofNat 6 (0x18 + i.val)
  | .wordHi i => BitVec.ofNat 6 (0x28 + 2 * i.val)
  | .wordLo i => BitVec.ofNat 6 (0x29 + 2 * i.val)

/-- The register at an address; none where the map has "unmapped" (20_memory.md R51, 10_state.md R35). -/
def regAt (a : Addr) : Option Reg :=
  match a.toNat with
  | 0x00 => some .ctrl
  | 0x01 => some .status
  | 0x02 => some .crc
  | 0x03 => some .din
  | 0x04 => some .opcHi
  | 0x05 => some .opcLo
  | 0x06 => some .parHi
  | 0x07 => some .parLo
  | 0x08 => some .wcnt
  | 0x09 => some .rxlen
  | 0x0A => some .txlen
  | 0x28 => some (.wordHi 0)
  | 0x29 => some (.wordLo 0)
  | 0x2A => some (.wordHi 1)
  | 0x2B => some (.wordLo 1)
  | 0x2C => some (.wordHi 2)
  | 0x2D => some (.wordLo 2)
  | n =>
    if h : 0x10 ≤ n ∧ n ≤ 0x14 then some (.txb ⟨n - 0x10, by omega⟩)
    else if h : 0x18 ≤ n ∧ n ≤ 0x20 then some (.rxb ⟨n - 0x18, by omega⟩)
    else none

end Sys2Proof.Machine
end

