-- ==== Sys2Proof/Machine/Ops.lean ====
section
/-! DEFINITION. The operations over the registers that every meaning shares: what a port read returns, what a port write
of a data register changes, and how WORD and TXB are written. There is no memory (20_memory.md R50). "Taking an exception" is
`raise` of Flags.lean: CFE8 has no trap entry and no trap return (60_exceptions.md R156, R158). -/

namespace Sys2Proof.Machine

/-- The value a register reads as (10_state.md R23 to R35): CTRL reads 0x00, reserved bits read 0. -/
def readReg (b : Block) : Reg → Byte
  | .ctrl => 0x00
  | .status => b.status.toByte
  | .crc => b.crc
  | .din => b.din
  | .opcHi => b.opcHi
  | .opcLo => b.opcLo
  | .parHi => b.parHi
  | .parLo => b.parLo
  | .wcnt => b.wcnt.zeroExtend 8
  | .rxlen => b.rxlen.zeroExtend 8
  | .txlen => b.txlen.zeroExtend 8
  | .txb i => b.txb[i]
  | .rxb i => b.rxb[i]
  | .wordHi i => hiByte b.word[i]
  | .wordLo i => loByte b.word[i]

/-- `RegRead(a)` (20_memory.md R54): an unmapped address reads 0x00. -/
def regRead (b : Block) (a : Addr) : Byte :=
  match regAt a with
  | some r => readReg b r
  | none => 0x00

/-- What a port write leaves in a register (20_memory.md R55). Read-only registers ignore it; CTRL stores nothing
(10_state.md R23), and the operation its write starts is no part of this. -/
def writeReg (v : Byte) (b : Block) : Reg → Block
  | .ctrl => b
  | .status => b
  | .crc => { b with crc := v }
  | .din => { b with din := v }
  | .opcHi => { b with opcHi := v }
  | .opcLo => { b with opcLo := v }
  | .parHi => { b with parHi := v }
  | .parLo => { b with parLo := v }
  | .wcnt => { b with wcnt := v.extractLsb' 0 2 }
  | .rxlen => { b with rxlen := v.extractLsb' 0 4 }
  | .txlen => b
  | .txb _ => b
  | .rxb i => { b with rxb := b.rxb.set i v }
  | .wordHi _ => b
  | .wordLo _ => b

/-- `RegWrite(a, v)` for an address other than CTRL (20_memory.md R55): an unmapped address ignores it. -/
def regWriteData (a : Addr) (v : Byte) (b : Block) : Block :=
  match regAt a with
  | some r => writeReg v b r
  | none => b

/-- All five bytes of TXB and TXLEN, which are always written together (10_state.md R32). -/
def setFrame (bytes : Vector Byte 5) (len : BitVec 3) (b : Block) : Block :=
  { b with txb := bytes, txlen := len }

/-- All three WORD registers, which are always written together (10_state.md R34). -/
def setWords (ws : Vector Word 3) (b : Block) : Block := { b with word := ws }

/-- The failure effects of DECODE (41_frame_codec.md R118) and the result it raises. -/
def decodeFail (r : Result) (info : BitVec 2) (b : Block) : Block :=
  raise r info (setDecoded false 0 (setWords (Vector.replicate 3 0) b))

/-- The success effects of DECODE (41_frame_codec.md R115). -/
def decodeOk (b : Block) : Block :=
  succeed (setDecoded true b.wcnt
    (setWords (Vector.ofFn fun i : Fin 3 => if i.val < b.wordCount then b.groupWord i else 0) b))

/-- The state with its block replaced. -/
def State.withBlock (s : State) (b : Block) : State := { s with block := b }

end Sys2Proof.Machine
end

