-- ==== Sys2Proof/Machine/Checksum.lean ====
section
/-! DEFINITION. The checksum engine operations (40_checksum.md section 2). -/

namespace Sys2Proof.Machine

/-- CRC_INIT (40_checksum.md R94). -/
def execCrcInit (s : State) : Host.Outcome State Fault Refusal :=
  .next (s.withBlock (succeed { s.block with crc := Config.init }))

/-- CRC_BYTE (40_checksum.md R95): folds DIN into whatever CRC holds. -/
def execCrcByte (s : State) : Host.Outcome State Fault Refusal :=
  .next (s.withBlock (succeed { s.block with crc := crcUpdate s.block.crc s.block.din }))

/-- CRC_WORD (40_checksum.md R96): the checksum of PAR, from `INIT`, high byte first. -/
def execCrcWord (s : State) : Host.Outcome State Fault Refusal :=
  .next (s.withBlock (succeed { s.block with crc := checksum [s.block.parHi, s.block.parLo] }))

end Sys2Proof.Machine
end

