-- ==== Sys2Proof/Machine/Control.lean ====
section
/-! DEFINITION. NOP and the two illegal ranges of control bytes (42_control.md). -/

namespace Sys2Proof.Machine

/-- NOP: "no state element changes" (42_control.md R140). -/
def execNop (s : State) : Host.Outcome State Fault Refusal := .next s

/-- The ILLEGAL_OP outcome (42_control.md R141). -/
def illegalOutcome (b : Block) : Block := raise .illegalOp 0 b

/-- A reserved OP with Z = 0 (30_encoding.md R73). -/
def execIllegalReservedOp (_op : BitVec 4) (s : State) : Host.Outcome State Fault Refusal :=
  .next (s.withBlock (illegalOutcome s.block))

/-- A control byte with Z not 0, whatever its OP (30_encoding.md R74). -/
def execIllegalZ (_z _op : BitVec 4) (s : State) : Host.Outcome State Fault Refusal :=
  .next (s.withBlock (illegalOutcome s.block))

end Sys2Proof.Machine
end

