-- ==== Sys2Proof/Machine/Frame.lean ====
section
/-! DEFINITION. The frame serializer and deserializer operations (41_frame_codec.md section 2). None of them reads or
writes CRC or DIN. -/

namespace Sys2Proof.Machine

/-- ENC_RD (41_frame_codec.md R112): the two command bytes, the rest of TXB cleared. -/
def execEncRd (s : State) : Host.Outcome State Fault Refusal :=
  .next (s.withBlock (succeed (setFrame #v[s.block.opcHi, s.block.opcLo, 0, 0, 0] 2 s.block)))

/-- ENC_WR (41_frame_codec.md R113): the command bytes, PAR, and the checksum of PAR alone. -/
def execEncWr (s : State) : Host.Outcome State Fault Refusal :=
  .next (s.withBlock (succeed (setFrame #v[s.block.opcHi, s.block.opcLo, s.block.parHi, s.block.parLo,
    checksum [s.block.parHi, s.block.parLo]] 5 s.block)))

/-- What DECODE does to the block (41_frame_codec.md R114): the length check (R116), then the checksum check in index
order (R117), then success (R115). -/
def decodeReply (b : Block) : Block :=
  if b.replyLength ≠ Config.groupBytes * b.wordCount then decodeFail .lengthError 0 b
  else
    match b.firstBadGroup with
    | some i => decodeFail .crcMismatch (BitVec.ofNat 2 i.val) b
    | none => decodeOk b

/-- DECODE (41_frame_codec.md R114). -/
def execDecode (s : State) : Host.Outcome State Fault Refusal :=
  .next (s.withBlock (decodeReply s.block))

end Sys2Proof.Machine
end

