-- ==== Sys2Proof/Machine/Dispatch.lean ====
section
/-! DEFINITION. The one dispatch from an operation to its meaning. -/

namespace Sys2Proof.Machine

def exec (i : Instr) (s : State) : Host.Outcome State Fault Refusal :=
  match i with
  | .nop => Sys2Proof.Machine.execNop s
  | .crcInit => Sys2Proof.Machine.execCrcInit s
  | .crcByte => Sys2Proof.Machine.execCrcByte s
  | .crcWord => Sys2Proof.Machine.execCrcWord s
  | .encRd => Sys2Proof.Machine.execEncRd s
  | .encWr => Sys2Proof.Machine.execEncWr s
  | .decode => Sys2Proof.Machine.execDecode s
  | .illegalReservedOp op => Sys2Proof.Machine.execIllegalReservedOp op s
  | .illegalZ z op => Sys2Proof.Machine.execIllegalZ z op s

end Sys2Proof.Machine
end

