-- ==== Sys2Proof/Machine/Port.lean ====
section
/-! DEFINITION. The register port and the reset input: what accepting one event does (20_memory.md R54, R55, R59;
70_reset_and_hazards.md R180). -/

namespace Sys2Proof.Machine

/-- The address of CTRL (10_state.md R23). -/
def ctrlAddr : Addr := 0x00

/-- `RegWrite(a, v)` (20_memory.md R55): a write of CTRL performs operation `v`, whole, before the next access (R59). -/
def regWrite (a : Addr) (v : Byte) (s : State) : Host.Outcome State Fault Refusal :=
  if a = ctrlAddr then exec (decodeByte v) s else .next (s.withBlock (regWriteData a v s.block))

/-- A read returns its value to the master and changes nothing else (20_memory.md R54). -/
def portRead (a : Addr) (s : State) : State := { s with rdata := some (regRead s.block a) }

/-- One port access while the reset input is released. -/
def portAccess (x : Access) (s : State) : Host.Outcome State Fault Refusal :=
  match x with
  | .read a => .next (portRead a s)
  | .write a v => regWrite a v { s with rdata := none }

/-- One port access while the reset input is asserted: every element holds its reset value (70_reset_and_hazards.md R180), so
a write has no effect and a read returns what the block then holds. DEDUCED (log 4). -/
def accessInReset (x : Access) (s : State) : State :=
  match x with
  | .read a => portRead a s
  | .write _ _ => { s with rdata := none }

/-- A new level of the reset input (70_reset_and_hazards.md R180): while it is asserted, and when it is released, every
element holds its reset value. A release of an input that is not asserted is no change. -/
def setResetInput (asserted : Bool) (s : State) : State :=
  if asserted || s.resetAsserted then
    { s with block := Block.reset, resetAsserted := asserted, rdata := none }
  else { s with rdata := none }

/-- The port accepts one event. The master that made an access has no influence (20_memory.md R58). -/
def accept (e : Event) (s : State) : Host.Outcome State Fault Refusal :=
  match e with
  | .resetInput asserted => .next (setResetInput asserted s)
  | .access _ x => if s.resetAsserted then .next (accessInReset x s) else portAccess x s

/-- An event with its master's name taken out (20_memory.md R58). -/
def anonymous (e : Event) : Event :=
  match e with
  | .access _ x => .access .host x
  | .resetInput l => .resetInput l

/-- The event of a master that issues control byte `v` (30_encoding.md R70). -/
def issue (m : Master) (v : Byte) : Event := .access m (.write ctrlAddr v)

end Sys2Proof.Machine
end

