-- ==== Sys2Proof/Machine/Step.lean ====
section
/-! DEFINITION. One step: the port accepts the next pending event, whole (20_memory.md R59). -/

namespace Sys2Proof.Machine

/-- The next pending event is accepted. With no event pending nothing happens: the block does nothing on its own
(10_state.md R36; log 2). -/
def step (s : State) : Host.Outcome State Fault Refusal :=
  match s.port with
  | [] => .next s
  | e :: rest => accept e { s with port := rest }

/-- The state in which the very next step performs the operation of a table word: the host's write of that byte to CTRL is
put before every other pending event, and the reset input is released (log 5). -/
def State.withFetchWord (s : State) (nbits w : Nat) : State :=
  { s with resetAsserted := false, port := issue .host (ctrlByteOf nbits w) :: s.port }

end Sys2Proof.Machine
end

