-- ==== Sys2Proof/Machine/Codec.lean ====
section
/-! DEFINITION. The functions of SCD4X that the operations perform, as functions over byte spans (41_frame_codec.md,
opening and R110, R111, R120). The meanings do not use them: R120 says that the operations agree with them. -/

namespace Sys2Proof.Machine

/-- `encode_read_request(opcode)`: "emits only the 2 opcode bytes (no parameter)". -/
def encodeReadRequest (opcode : Word) : List Byte := wordBytes opcode

/-- A word's two bytes and then their checksum: a group (20_memory.md R53). -/
def groupOf (w : Word) : List Byte := wordBytes w ++ [checksum (wordBytes w)]

/-- `encode_write(opcode, Option<param_word>)`: the opcode big-endian, and a group for a parameter that is present. -/
def encodeWrite (opcode : Word) : Option Word → List Byte
  | none => wordBytes opcode
  | some param => wordBytes opcode ++ groupOf param

/-- A reply of the given words (41_frame_codec.md R111). -/
def encodeReply : List Word → List Byte
  | [] => []
  | w :: ws => groupOf w ++ encodeReply ws

/-- The check of a group given as 24 bits, first byte in bits 23:16 (40_checksum.md R99, 41_frame_codec.md R117). -/
def groupPasses (g : BitVec 24) : Bool :=
  groupCheck (g.extractLsb' 16 8) (g.extractLsb' 8 8) (g.extractLsb' 0 8)

/-- The weight of a 24-bit error pattern: how many of its bits are set (40_checksum.md R99). -/
def errorWeight (e : BitVec 24) : Nat := (List.range 24).countP e.getLsbD

/-- An error pattern confined to 8 or fewer consecutive bit positions (40_checksum.md R99). -/
def isBurst (e : BitVec 24) : Prop := ∃ k : Nat, ∀ i : Nat, e.getLsbD i = true → k ≤ i ∧ i < k + 8

/-- Why `decode_words` fails: SCD4X names `ChecksumError`, which says which word failed; the other name is this model's for
a raw length that is not `word_count * 3` (92_eei_decisions.md D11). -/
inductive CodecError
  | checksumError (word : Nat)
  | badLength
  deriving DecidableEq, Repr

/-- The groups of `raw` in order, the first of them being number `i`: "on mismatch for any group, fail immediately". -/
def decodeGroups (i : Nat) : List Byte → Except CodecError (List Word)
  | hi :: lo :: c :: rest =>
    if c = checksum [hi, lo] then
      match decodeGroups (i + 1) rest with
      | .ok ws => .ok (wordOf hi lo :: ws)
      | .error e => .error e
    else .error (.checksumError i)
  | _ => .ok []

/-- `decode_words(raw, word_count)`: "raw length must equal `word_count * 3`". -/
def decodeWords (raw : List Byte) (wordCount : Nat) : Except CodecError (List Word) :=
  if raw.length = wordCount * 3 then decodeGroups 0 raw else .error .badLength

end Sys2Proof.Machine
end

