-- ==== Sys2Proof/Machine/Platform.lean ====
section
/-! DEFINITION. Host level, outside the block: the bus controller's duties (60_exceptions.md R165), the host's
transaction sequences as port accesses (70_reset_and_hazards.md R185 to R187), the data-ready test (R191), host scripts
(30_encoding.md R76) and several blocks side by side (60_exceptions.md R163). The delays are not modelled (00_scope.md R3). -/

namespace Sys2Proof.Machine

/-- The bytes the bus controller sends: `TXB[0]` to `TXB[TXLEN-1]` in that order (60_exceptions.md R165). -/
def Block.outgoing (b : Block) : List Byte := b.txb.toList.take b.txlen.toNat

/-- `bus_write(address, bytes)` of the outgoing frame (60_exceptions.md R165). The address is the host's, in the form its bus
primitive expects (92_eei_decisions.md D25, D43; log 15, log 16). -/
def busWrite (form : BusAddrForm) (b : Block) (addr : BitVec 7 := Config.busAddr) : Byte × List Byte :=
  (form.address addr, b.outgoing)

/-- The writes of reply bytes to consecutive RXB registers from number `i` on; bytes for which there is no RXB register are
not written (log 12). -/
def loadRxb : Nat → List Byte → List Access
  | _, [] => []
  | i, v :: vs => if h : i < 9 then .write (addrOf (.rxb ⟨i, h⟩)) v :: loadRxb (i + 1) vs else []

/-- The accesses that deliver a reply: its bytes to `RXB[0]` on, in the order received, and then RXLEN, their number
(60_exceptions.md R165). -/
def loadReply (bytes : List Byte) : List Access :=
  loadRxb 0 bytes ++ [.write (addrOf .rxlen) (BitVec.ofNat 8 bytes.length)]

/-- The two writes of a 16-bit register pair (30_encoding.md R78, `ld.opc`). -/
def loadOpc (w : Word) : List Access := [.write (addrOf .opcHi) (hiByte w), .write (addrOf .opcLo) (loByte w)]

/-- The two writes of a 16-bit register pair (30_encoding.md R78, `ld.par`). -/
def loadPar (w : Word) : List Access := [.write (addrOf .parHi) (hiByte w), .write (addrOf .parLo) (loByte w)]

/-- The access that issues an operation (30_encoding.md R70). -/
def issueAccess (i : Instr) : Access := .write ctrlAddr (encode i)

/-- Accesses of one master, as events. -/
def eventsOf (m : Master) (xs : List Access) : List Event := xs.map (Event.access m)

/-- The host's part of a request with no parameter (70_reset_and_hazards.md R185, R186). -/
def requestRead (opcode : Word) : List Event := eventsOf .host (loadOpc opcode ++ [issueAccess .encRd])

/-- The host's part of a request with a parameter (70_reset_and_hazards.md R186, R187). -/
def requestWrite (opcode param : Word) : List Event :=
  eventsOf .host (loadOpc opcode ++ loadPar param ++ [issueAccess .encWr])

/-- The reply part of a transaction (70_reset_and_hazards.md R185, R187): the bus controller delivers the bytes, the host writes
WCNT and issues DECODE. -/
def receiveReply (bytes : List Byte) (n : Byte) : List Event :=
  eventsOf .busController (loadReply bytes) ++
    eventsOf .host [.write (addrOf .wcnt) n, issueAccess .decode]

/-- The accesses of a byte-serial checksum (40_checksum.md R97; 30_encoding.md R78, `crc.span`). -/
def spanAccesses (s : List Byte) : List Access :=
  issueAccess .crcInit :: s.flatMap fun v => [.write (addrOf .din) v, issueAccess .crcByte]

/-- The host's data-ready test of WORD0 (70_reset_and_hazards.md R191): ready unless the bits under the mask are all zero. The
mask is an argument whose default is R191's low 12 bits: 93_implementation_defined.md U3 leaves the mask unconfirmed and makes
it a parameter of the host model. DESIGN CHOICE in that form (log 16). -/
def dataReady (w : Word) (mask : Word := Config.dataReadyMask) : Bool := decide (w &&& mask ≠ 0)

/-- A host script of port transaction words (30_encoding.md R76). -/
def scriptEvents (m : Master) (ts : List PortWord) : List Event := eventsOf m (ts.map decodePortWord)

/-- A state before which the given events are put. -/
def State.offer (s : State) (es : List Event) : State := { s with port := es ++ s.port }

/-- As many steps as there are events: the port accepts all of `es` and then stands where it stood. -/
def serve (es : List Event) (s : State) : Host.Outcome State Fault Refusal :=
  Sys2Proof.core.run es.length (s.offer es)

/-- One step of block number `k` of several (60_exceptions.md R163): none shares state with another. That the blocks are a list
of which one steps at a time is a DESIGN CHOICE (log 14). -/
def stepOne (k : Nat) (sys : List State) : List State :=
  match sys[k]? with
  | none => sys
  | some s =>
    match step s with
    | .next t => sys.set k t
    | .fault _ => sys
    | .refused _ => sys

end Sys2Proof.Machine
end

