-- ==== Sys2Proof/Machine/Assembler.lean ====
section
/-! DEFINITION. The notation of host scripts: assembler lines (30_encoding.md R77), pseudo-instructions (R78), their text,
and the port transaction words they stand for (R76). -/

namespace Sys2Proof.Machine

/-- The lines of 30_encoding.md R77. `op` is an operation named by its mnemonic, `ctrl` an arbitrary control byte. -/
inductive AsmLine
  | wr (a : Addr) (imm : Byte)
  | rd (a : Addr)
  | op (i : Instr)
  | ctrl (imm : Byte)
  deriving DecidableEq, Repr

/-- The one port access a line stands for (30_encoding.md R77). -/
def AsmLine.access : AsmLine → Access
  | .wr a imm => .write a imm
  | .rd a => .read a
  | .op i => issueAccess i
  | .ctrl imm => .write ctrlAddr imm

/-- The port transaction word of a line (30_encoding.md R76, R77). -/
def AsmLine.word (l : AsmLine) : PortWord := encodePortWord l.access

/-- The pseudo-instructions of 30_encoding.md R78. -/
inductive Pseudo
  | ldOpc (imm : Word)
  | ldPar (imm : Word)
  | encWrNone
  | crcSpan (bytes : List Byte)
  | loadRx (bytes : List Byte)
  | decodeN (n : Byte)
  | ldCrc (imm : Byte)
  deriving DecidableEq, Repr

/-- The writes of `load.rx` before the one of RXLEN. -/
def loadRxLines : Nat → List Byte → List AsmLine
  | _, [] => []
  | i, v :: vs => if h : i < 9 then .wr (addrOf (.rxb ⟨i, h⟩)) v :: loadRxLines (i + 1) vs else []

/-- The expansion of a pseudo-instruction (30_encoding.md R78). -/
def Pseudo.expand : Pseudo → List AsmLine
  | .ldOpc w => [.wr (addrOf .opcHi) (hiByte w), .wr (addrOf .opcLo) (loByte w)]
  | .ldPar w => [.wr (addrOf .parHi) (hiByte w), .wr (addrOf .parLo) (loByte w)]
  | .encWrNone => [.op .encRd]
  | .crcSpan bytes => .op .crcInit :: bytes.flatMap fun v => [.wr (addrOf .din) v, .op .crcByte]
  | .loadRx bytes => loadRxLines 0 bytes ++ [.wr (addrOf .rxlen) (BitVec.ofNat 8 bytes.length)]
  | .decodeN n => [.wr (addrOf .wcnt) n, .op .decode]
  | .ldCrc v => [.wr (addrOf .crc) v]

/-- The port transaction words of a pseudo-instruction, in their order (30_encoding.md R78). -/
def Pseudo.words (p : Pseudo) : List PortWord := p.expand.map AsmLine.word

/-- `load.rx` takes at most nine bytes, and at least one (30_encoding.md R78). -/
def Pseudo.wellFormed : Pseudo → Bool
  | .loadRx bytes => decide (1 ≤ bytes.length ∧ bytes.length ≤ 9)
  | .ldOpc _ | .ldPar _ | .encWrNone | .crcSpan _ | .decodeN _ | .ldCrc _ => true

/-- A source line. -/
inductive Source
  | line (l : AsmLine)
  | pseudo (p : Pseudo)
  deriving DecidableEq, Repr

/-- The lines a source line stands for. -/
def Source.lines : Source → List AsmLine
  | .line l => [l]
  | .pseudo p => p.expand

/-- The operation mnemonics of 30_encoding.md R77, in the order of R72. -/
def opMnemonics : List (String × Instr) :=
  [("nop", .nop), ("crc.init", .crcInit), ("crc.byte", .crcByte), ("crc.word", .crcWord), ("enc.rd", .encRd),
   ("enc.wr", .encWr), ("decode", .decode)]

/-- The register names of 20_memory.md R51. -/
def regNames : List (String × Reg) :=
  [("CTRL", .ctrl), ("STATUS", .status), ("CRC", .crc), ("DIN", .din), ("OPC_HI", .opcHi), ("OPC_LO", .opcLo),
   ("PAR_HI", .parHi), ("PAR_LO", .parLo), ("WCNT", .wcnt), ("RXLEN", .rxlen), ("TXLEN", .txlen)] ++
  [("TXB0", .txb 0), ("TXB1", .txb 1), ("TXB2", .txb 2), ("TXB3", .txb 3), ("TXB4", .txb 4)] ++
  [("RXB0", .rxb 0), ("RXB1", .rxb 1), ("RXB2", .rxb 2), ("RXB3", .rxb 3), ("RXB4", .rxb 4), ("RXB5", .rxb 5),
   ("RXB6", .rxb 6), ("RXB7", .rxb 7), ("RXB8", .rxb 8)] ++
  [("WORD0_HI", .wordHi 0), ("WORD0_LO", .wordLo 0), ("WORD1_HI", .wordHi 1), ("WORD1_LO", .wordLo 1),
   ("WORD2_HI", .wordHi 2), ("WORD2_LO", .wordLo 2)]

/-- The value of a digit in a base of at most sixteen. -/
def digitValue (base : Nat) (c : Char) : Option Nat :=
  let n := c.toNat
  let d :=
    if 0x30 ≤ n ∧ n ≤ 0x39 then some (n - 0x30)
    else if 0x41 ≤ n ∧ n ≤ 0x46 then some (n - 0x41 + 10)
    else if 0x61 ≤ n ∧ n ≤ 0x66 then some (n - 0x61 + 10)
    else none
  d.filter (· < base)

/-- A number's digits, most significant first; at least one. -/
def digitsValue (base : Nat) : List Char → Option Nat
  | [] => none
  | c :: cs => cs.foldl (fun acc d => do return (← acc) * base + (← digitValue base d)) (digitValue base c)

/-- A number of 30_encoding.md R77: decimal, or hexadecimal with 0x. -/
def parseNumber : List Char → Option Nat
  | '0' :: 'x' :: ds => digitsValue 16 ds
  | ds => digitsValue 10 ds

/-- A number that fits in `w` bits. -/
def parseImm (w : Nat) (t : List Char) : Option (BitVec w) :=
  (parseNumber t).bind fun n => if n < 2 ^ w then some (BitVec.ofNat w n) else none

/-- `<REG>`: a register name or a 6-bit number (30_encoding.md R77). -/
def parseReg (t : List Char) : Option Addr :=
  match regNames.find? fun p => decide (p.1.toList = t) with
  | some p => some (addrOf p.2)
  | none => parseImm 6 t

/-- White space between the parts of a line (log 11). -/
def isBlank (c : Char) : Bool := c = ' ' || c = '\t' || c = '\r'

/-- White space taken off both ends. -/
def trimBlank (t : List Char) : List Char := ((t.dropWhile isBlank).reverse.dropWhile isBlank).reverse

/-- The operands after a mnemonic, separated by commas; none for an empty text. -/
def operandTexts (t : List Char) : List (List Char) :=
  if trimBlank t = [] then [] else (t.splitOnP (· = ',')).map trimBlank

/-- Every operand as a byte. -/
def parseBytes (ts : List (List Char)) : Option (List Byte) := ts.mapM (parseImm 8)

/-- A line from its mnemonic and operands (30_encoding.md R77, R78). -/
def parseParts (m : List Char) (ops : List (List Char)) : Option Source :=
  match opMnemonics.find? fun p => decide (p.1.toList = m) with
  | some p => if ops = [] then some (.line (.op p.2)) else none
  | none =>
    if m = "wr".toList then
      match ops with
      | [r, v] => do return .line (.wr (← parseReg r) (← parseImm 8 v))
      | _ => none
    else if m = "rd".toList then
      match ops with
      | [r] => do return .line (.rd (← parseReg r))
      | _ => none
    else if m = "ctrl".toList then
      match ops with
      | [v] => do return .line (.ctrl (← parseImm 8 v))
      | _ => none
    else if m = "ld.opc".toList then
      match ops with
      | [v] => do return .pseudo (.ldOpc (← parseImm 16 v))
      | _ => none
    else if m = "ld.par".toList then
      match ops with
      | [v] => do return .pseudo (.ldPar (← parseImm 16 v))
      | _ => none
    else if m = "enc.wr.none".toList then
      if ops = [] then some (.pseudo .encWrNone) else none
    else if m = "crc.span".toList then
      (parseBytes ops).map fun bs => .pseudo (.crcSpan bs)
    else if m = "load.rx".toList then
      (parseBytes ops).bind fun bs =>
        if (Pseudo.loadRx bs).wellFormed then some (.pseudo (.loadRx bs)) else none
    else if m = "decode.n".toList then
      match ops with
      | [v] => do return .pseudo (.decodeN (← parseImm 8 v))
      | _ => none
    else if m = "ld.crc".toList then
      match ops with
      | [v] => do return .pseudo (.ldCrc (← parseImm 8 v))
      | _ => none
    else none

/-- The lines that a line of text stands for: a `;` starts a comment (30_encoding.md R77), and a line of nothing else stands
for no line. -/
def parseLine (text : String) : Option (List AsmLine) :=
  let t := trimBlank (text.toList.takeWhile (· ≠ ';'))
  let m := t.takeWhile fun c => !isBlank c
  if m = [] then some [] else (parseParts m (operandTexts (t.dropWhile fun c => !isBlank c))).map Source.lines

/-- The port transaction words of a script, or none where a line is not in the notation. -/
def assemble (text : List String) : Option (List PortWord) :=
  (text.mapM parseLine).map fun ls => ls.flatten.map AsmLine.word

end Sys2Proof.Machine
end

