-- ==== Sys2Proof/Safety.lean ====
section
/-! DEFINITION. What every state of a run satisfies (10_state.md R37, R38, R26; 41_frame_codec.md R110;
70_reset_and_hazards.md R180), and what a safe step is. -/

namespace Sys2Proof.Machine

/-- 10_state.md R37: STATUS says which WORD registers hold decoded words, and the others are 0x0000. -/
structure Block.WordsConsistent (b : Block) : Prop where
  noneDecoded : b.status.dvalid = false → b.status.dcnt = 0 ∧ ∀ i : Fin 3, b.word[i] = 0
  beyondCount : b.status.dvalid = true → ∀ i : Fin 3, b.status.dcnt.toNat ≤ i.val → b.word[i] = 0

/-- 10_state.md R38 (TXLEN is 0, 2 or 5, and TXB is 0x00 from TXLEN on), and the last byte of a five-byte frame is the
checksum of its parameter word (41_frame_codec.md R110). -/
structure Block.FrameConsistent (b : Block) : Prop where
  lengths : b.txlen = 0 ∨ b.txlen = 2 ∨ b.txlen = 5
  beyondLength : ∀ i : Fin 5, b.txlen.toNat ≤ i.val → b.txb[i] = 0
  paramSum : b.txlen = 5 → b.txb[4] = checksum [b.txb[2], b.txb[3]]

/-- 10_state.md R26, 60_exceptions.md R150: EIDX is a word index 0 to 2 after a CRC_MISMATCH and 0 otherwise. -/
structure Status.IndexConsistent (f : Status) : Prop where
  isIndex : f.eidx.toNat ≤ 2
  onlyMismatch : f.res ≠ .crcMismatch → f.eidx = 0

/-- The invariant of the block. -/
structure Block.Inv (b : Block) : Prop where
  words : b.WordsConsistent
  frame : b.FrameConsistent
  index : b.status.IndexConsistent

/-- The invariant of the state: the block's, and while the reset input is asserted every element holds its reset value
(70_reset_and_hazards.md R180). -/
structure State.Inv (s : State) : Prop where
  block : s.block.Inv
  held : s.resetAsserted = true → s.block = Block.reset

/-- A step is safe when it stops neither with a fault nor with a refusal (60_exceptions.md R156). -/
def SafeStep (s : State) : Prop := ∃ t, step s = .next t

end Sys2Proof.Machine
end

