-- ==== Sys2Proof/Certificates/Slice0/Obligations.lean ====
section
/-! DEFINITION. The statements about CFE8 that the provers settle. Each docstring names the rule of the spec it
formalises. A state is arbitrary unless a premise says otherwise: no premise rests on a run. -/

open Sys2Proof Sys2Proof.Machine

/-! ## Reset and the reset input -/

/-- 70_reset_and_hazards.md R181: the reset value of every element, and that CTRL reads 0x00. -/
def Obligations.ResetValues : Prop :=
  State.reset.block.crc = 0xFF ∧ State.reset.block.din = 0x00 ∧
  State.reset.block.status.res = .ok ∧ State.reset.block.status.eidx = 0 ∧
  State.reset.block.status.dvalid = false ∧ State.reset.block.status.dcnt = 0 ∧
  regRead State.reset.block 0x01 = 0x00 ∧
  State.reset.block.opcHi = 0x00 ∧ State.reset.block.opcLo = 0x00 ∧
  State.reset.block.parHi = 0x00 ∧ State.reset.block.parLo = 0x00 ∧
  State.reset.block.wcnt = 0 ∧ State.reset.block.rxlen = 0 ∧ State.reset.block.txlen = 0 ∧
  (∀ i : Fin 5, State.reset.block.txb[i] = 0x00) ∧
  (∀ i : Fin 9, State.reset.block.rxb[i] = 0x00) ∧
  (∀ i : Fin 3, State.reset.block.word[i] = 0x0000) ∧
  regRead State.reset.block 0x00 = 0x00

/-- 70_reset_and_hazards.md R180: asserting the reset input puts every element at its reset value, from any state; while it is
asserted, and by its release, every element stays there, whatever access is made; and an access just before the assertion
leaves the same block as none. That accesses are accepted at all during reset is the model's choice (log 4), and so is that
`rdata` is then cleared (log 3). -/
def Obligations.ResetInputForcesResetValues : Prop :=
  (∀ s rest, s.port = .resetInput true :: rest →
    step s = .next { block := Block.reset, resetAsserted := true, port := rest, rdata := none }) ∧
  (∀ s, s.resetAsserted = true → s.block = Block.reset → ∃ t, step s = .next t ∧ t.block = Block.reset) ∧
  (∀ s rest, s.resetAsserted = true → s.port = .resetInput false :: rest →
    step s = .next { block := Block.reset, resetAsserted := false, port := rest, rdata := none }) ∧
  (∀ s m x, ∃ t, serve [.access m x, .resetInput true] s = .next t ∧ t.block = Block.reset ∧ t.resetAsserted = true)

/-- 70_reset_and_hazards.md R182: right after reset DECODE succeeds with no words, and ENC_RD encodes the frame [00, 00]. -/
def Obligations.ResetStateDecodesNothing : Prop :=
  (∃ t, exec .decode State.reset = .next t ∧ t.block.status.res = .ok ∧ t.block.status.dvalid = true ∧
    t.block.status.dcnt = 0 ∧ ∀ i : Fin 3, t.block.word[i] = 0) ∧
  (∃ t, exec .encRd State.reset = .next t ∧ t.block.outgoing = [0x00, 0x00])

/-! ## The register port -/

/-- 20_memory.md R54: what a read of each of the 64 addresses returns, and that a read changes no state element, so that every
later read gives what it would have given before. Two points of the second clause are the model's choice: that a read is
accepted and answered also while the reset input is asserted (log 4), and that its value stands in `rdata` (log 3). -/
def Obligations.RegReadFollowsTheMap : Prop :=
  (∀ b : Block,
    regRead b 0x00 = 0x00 ∧ regRead b 0x01 = b.status.toByte ∧ regRead b 0x02 = b.crc ∧ regRead b 0x03 = b.din ∧
    regRead b 0x04 = b.opcHi ∧ regRead b 0x05 = b.opcLo ∧ regRead b 0x06 = b.parHi ∧ regRead b 0x07 = b.parLo ∧
    (regRead b 0x08).toNat = b.wcnt.toNat ∧ (regRead b 0x09).toNat = b.rxlen.toNat ∧
    (regRead b 0x0A).toNat = b.txlen.toNat ∧
    (∀ i : Fin 5, regRead b (BitVec.ofNat 6 (0x10 + i.val)) = b.txb[i]) ∧
    (∀ i : Fin 9, regRead b (BitVec.ofNat 6 (0x18 + i.val)) = b.rxb[i]) ∧
    (∀ i : Fin 3, (regRead b (BitVec.ofNat 6 (0x28 + 2 * i.val))).toNat = b.word[i].toNat / 256) ∧
    (∀ i : Fin 3, (regRead b (BitVec.ofNat 6 (0x29 + 2 * i.val))).toNat = b.word[i].toNat % 256) ∧
    (∀ a : Addr, (0x0B ≤ a.toNat ∧ a.toNat ≤ 0x0F) ∨ (0x15 ≤ a.toNat ∧ a.toNat ≤ 0x17) ∨
      (0x21 ≤ a.toNat ∧ a.toNat ≤ 0x27) ∨ 0x2E ≤ a.toNat → regRead b a = 0x00)) ∧
  (∀ s m a rest, s.port = .access m (.read a) :: rest →
    step s = .next { s with port := rest, rdata := some (regRead s.block a) }) ∧
  (∀ s a a', regRead (portRead a s).block a' = regRead s.block a')

/-- 10_state.md R26: the STATUS byte, field by field: RES in bits 1:0 with the codes of 60_exceptions.md R150, EIDX in 3:2,
DVALID in 4, DCNT in 6:5, bit 7 read as 0. -/
def Obligations.StatusByteLayout : Prop :=
  ∀ b : Block, (regRead b 0x01).toNat =
    (match b.status.res with | .ok => 0 | .crcMismatch => 1 | .lengthError => 2 | .illegalOp => 3) +
      4 * b.status.eidx.toNat + 16 * b.status.dvalid.toNat + 32 * b.status.dcnt.toNat

/-- 20_memory.md R55: what a write of each address does once the port accepts it. A write of CTRL performs the operation, every
time; a write of a data register changes that register alone; every other write has no effect; and a repeated write of a data
register is as one. That a write clears the value of an earlier read is the model's choice (log 3). -/
def Obligations.RegWriteFollowsTheMap : Prop :=
  (∀ s m a v rest, s.resetAsserted = false → s.port = .access m (.write a v) :: rest →
    (a = 0x00 → step s = exec (decodeByte v) { s with port := rest, rdata := none }) ∧
    (a = 0x02 → step s = .next { s with port := rest, rdata := none, block := { s.block with crc := v } }) ∧
    (a = 0x03 → step s = .next { s with port := rest, rdata := none, block := { s.block with din := v } }) ∧
    (a = 0x04 → step s = .next { s with port := rest, rdata := none, block := { s.block with opcHi := v } }) ∧
    (a = 0x05 → step s = .next { s with port := rest, rdata := none, block := { s.block with opcLo := v } }) ∧
    (a = 0x06 → step s = .next { s with port := rest, rdata := none, block := { s.block with parHi := v } }) ∧
    (a = 0x07 → step s = .next { s with port := rest, rdata := none, block := { s.block with parLo := v } }) ∧
    (a = 0x08 → step s = .next { s with
      port := rest, rdata := none, block := { s.block with wcnt := BitVec.ofNat 2 (v.toNat % 4) } }) ∧
    (a = 0x09 → step s = .next { s with
      port := rest, rdata := none, block := { s.block with rxlen := BitVec.ofNat 4 (v.toNat % 16) } }) ∧
    (∀ i : Fin 9, a = BitVec.ofNat 6 (0x18 + i.val) → step s = .next { s with
      port := rest, rdata := none, block := { s.block with rxb := s.block.rxb.set i v } }) ∧
    (a = 0x01 ∨ (0x0A ≤ a.toNat ∧ a.toNat ≤ 0x17) ∨ 0x21 ≤ a.toNat →
      step s = .next { s with port := rest, rdata := none })) ∧
  (∀ a v b, regWriteData a v (regWriteData a v b) = regWriteData a v b)

/-- 10_state.md R23 to R35: a read after what a write STORES (`regWriteData`, the data part of a port write). A read-write
register reads as written, WCNT and RXLEN as their kept bits; a write to CTRL, a read-only register or an unmapped address
stores nothing; and what is stored at one address leaves what every other address reads as before. For CTRL this is "stores
nothing" of R23: the operation that a CTRL write performs is no part of this statement (RegWriteFollowsTheMap has it). -/
def Obligations.ReadAfterWrite : Prop :=
  (∀ b v a, (0x02 ≤ a.toNat ∧ a.toNat ≤ 0x07) ∨ (0x18 ≤ a.toNat ∧ a.toNat ≤ 0x20) →
    regRead (regWriteData a v b) a = v) ∧
  (∀ b v, regRead (regWriteData 0x08 v b) 0x08 = v &&& 0x03) ∧
  (∀ b v, regRead (regWriteData 0x09 v b) 0x09 = v &&& 0x0F) ∧
  (∀ b v a, a.toNat ≤ 0x01 ∨ (0x0A ≤ a.toNat ∧ a.toNat ≤ 0x17) ∨ 0x21 ≤ a.toNat → regWriteData a v b = b) ∧
  (∀ b v a a', a ≠ a' → regRead (regWriteData a v b) a' = regRead b a')

/-- 20_memory.md R58: the block does not tell its port masters apart. After any number of steps, two machines whose pending
events differ in the masters' names alone differ in those names alone. -/
def Obligations.MastersAreNotToldApart : Prop :=
  ∀ (k : Nat) (s t : State), Sys2Proof.core.run k s = .next t →
    Sys2Proof.core.run k { s with port := s.port.map anonymous } = .next { t with port := t.port.map anonymous }

/-! ## Decoding and the step -/

/-- 30_encoding.md R72 to R74: the opcode map, word for word, and a byte of each illegal range. -/
def Obligations.OpcodeMapWords : Prop :=
  decodeByte 0b00000000#8 = .nop ∧ decodeByte 0b00000001#8 = .crcInit ∧ decodeByte 0b00000010#8 = .crcByte ∧
  decodeByte 0b00000011#8 = .crcWord ∧ decodeByte 0b00000100#8 = .encRd ∧ decodeByte 0b00000101#8 = .encWr ∧
  decodeByte 0b00000110#8 = .decode ∧
  decodeByte 0b00001111#8 = .illegalReservedOp 0xF ∧ decodeByte 0b00010110#8 = .illegalZ 0x1 0x6

/-- spec/opcode_table.json: exactly one row covers each control byte, and it is the row of the operation the byte selects. -/
def Obligations.OpcodeTableCoversEveryByte : Prop :=
  ∀ v : Byte, ∃ r, opcodeTable.filter (OpcodeRow.covers · v) = [r] ∧ r.mnemonic = (decodeByte v).mnemonic

/-- Encoding and decoding agree in both directions: control bytes (30_encoding.md R70 to R74), lists of them, and port
transaction words (R76). -/
def Obligations.EncodeDecodeRoundTrip : Prop :=
  (∀ i : Instr, i.wellFormed = true → ∀ rest, decode (encodeBytes i ++ rest) = .ok (i, rest)) ∧
  (∀ v : Byte, (decodeByte v).wellFormed = true ∧ encode (decodeByte v) = v) ∧
  (∀ x : Access, (encodePortWord x).wellFormed = true ∧ decodePortWord (encodePortWord x) = x) ∧
  (∀ w : Sys2Proof.PortWord, w.wellFormed = true → encodePortWord (decodePortWord w) = w)

/-- 30_encoding.md R76, R77: issuing operation v is the word 0x4000 | v, DECODE is 0x4006, reading STATUS is 0x0100; and the
words of the three kinds of assembler line. -/
def Obligations.PortWordExamples : Prop :=
  (∀ v : Byte, decodePortWord (0x4000 ||| v.zeroExtend 15) = .write 0x00 v) ∧
  encodePortWord (issueAccess .decode) = 0x4006 ∧ encodePortWord (.read 0x01) = 0x0100 ∧
  (∀ (a : Addr) (v : Byte), encodePortWord (AsmLine.wr a v).access =
    0x4000 ||| (a.zeroExtend 15 <<< 8) ||| v.zeroExtend 15) ∧
  (∀ a : Addr, encodePortWord (AsmLine.rd a).access = a.zeroExtend 15 <<< 8) ∧
  (∀ i : Instr, encodePortWord (AsmLine.op i).access = 0x4000 ||| (encode i).zeroExtend 15) ∧
  (∀ v : Byte, encodePortWord (AsmLine.ctrl v).access = 0x4000 ||| v.zeroExtend 15)

/-- A step runs the decoded operation: when the next pending event is a write of CTRL and the reset input is released, the step
is `exec` of the operation that byte selects, in the state with that event taken and no read value (30_encoding.md R70,
20_memory.md R55, R59). That an earlier read's value is then cleared (log 3), and that the step changes nothing with no event
pending (log 2), is the model's choice. -/
def Obligations.StepRunsDecodedOperation : Prop :=
  (∀ s m v i rest, s.resetAsserted = false → s.port = .access m (.write 0x00 v) :: rest →
    decode [v] = .ok (i, []) → step s = exec i { s with port := rest, rdata := none }) ∧
  (∀ s i rest m, i.wellFormed = true → s.resetAsserted = false →
    s.port = .access m (.write 0x00 (encode i)) :: rest → step s = exec i { s with port := rest, rdata := none }) ∧
  (∀ s, s.port = [] → step s = .next s)

/-- About the model's own placing of a program, no rule of the spec: the state that `withFetchWord` gives runs the operation of
that word as its very next step. That the placed write comes before every other event and the reset input is released (log 5),
and that an earlier read's value is cleared (log 3), is the model's choice. -/
def Obligations.FetchWordRunsNext : Prop :=
  ∀ (s : State) (nbits w : Nat) (i : Instr), decodeTableWord nbits w = some i →
    step (s.withFetchWord nbits w) = exec i { s with resetAsserted := false, rdata := none }

/-- 70_reset_and_hazards.md R183: every operation is legal in every state: it completes, and leaves the pending events, the reset
input and the port's read value alone. -/
def Obligations.EveryOperationCompletes : Prop :=
  ∀ (i : Instr) (s : State), ∃ t, exec i s = .next t ∧
    t.port = s.port ∧ t.resetAsserted = s.resetAsserted ∧ t.rdata = s.rdata

/-- 60_exceptions.md R156: the block never stops. Every step is safe, and any number of steps from any state completes. -/
def Obligations.BlockNeverStops : Prop :=
  (∀ s : State, SafeStep s) ∧ ∀ (k : Nat) (s : State), ∃ t, Sys2Proof.core.run k s = .next t

/-! ## The checksum function -/

/-- 40_checksum.md R90, R91, R92: one iteration in arithmetic, eight iterations for each byte, and the fold over a span from
0xFF. -/
def Obligations.ChecksumAlgorithm : Prop :=
  (∀ a : Byte, (crcStep a).toNat =
    if 128 ≤ a.toNat then (2 * a.toNat % 256) ^^^ 0x31 else 2 * a.toNat % 256) ∧
  (∀ a b : Byte, crcUpdate a b = crcStep^[8] (a ^^^ b)) ∧
  checksum [] = 0xFF ∧
  (∀ s b, checksum (s ++ [b]) = crcUpdate (checksum s) b) ∧
  checksum [0xBE, 0xEF] = 0x92

/-- 40_checksum.md R93: the checksum is affine over GF(2). -/
def Obligations.ChecksumAffine : Prop :=
  ∀ s t : List Byte, s.length = t.length →
    checksum (List.zipWith (· ^^^ ·) s t) = checksum s ^^^ checksum t ^^^ checksum (List.replicate s.length 0)

/-- 40_checksum.md R98: the table of 95_test_vectors.md section 2.1 computes one byte's fold. -/
def Obligations.TableComputesUpdate : Prop :=
  crcTable.length = 256 ∧ (∀ x : Byte, crcTable[x.toNat]? = some (crcUpdate 0x00 x)) ∧
  ∀ a b : Byte, crcUpdate a b = crcUpdateByTable a b

/-- 40_checksum.md R97: the byte-serial sequence leaves the checksum of its span, and CRC_WORD leaves what the sequence over PAR
leaves. -/
def Obligations.ByteSerialChecksum : Prop :=
  (∀ (m : Master) (span : List Byte) (s : State), s.resetAsserted = false →
    ∃ t, serve (eventsOf m (spanAccesses span)) s = .next t ∧ t.block.crc = checksum span ∧ t.port = s.port) ∧
  (∀ (m : Master) (s : State), s.resetAsserted = false →
    ∃ t u, serve (eventsOf m (spanAccesses [s.block.parHi, s.block.parLo])) s = .next t ∧
      exec .crcWord s = .next u ∧ t.block.crc = u.block.crc)

/-- 40_checksum.md R99: a word followed by its checksum has the residue 0, and the check of a group detects every error of
weight 1, of weight 2, of odd weight, and within 8 consecutive bit positions. -/
def Obligations.ResidueAndErrorDetection : Prop :=
  (∀ w : Word, checksum [hiByte w, loByte w, checksum [hiByte w, loByte w]] = 0x00) ∧
  (∀ g e : BitVec 24, e ≠ 0 → errorWeight e = 1 ∨ errorWeight e = 2 ∨ errorWeight e % 2 = 1 ∨ isBurst e →
    groupPasses g = true → groupPasses (g ^^^ e) = false)

/-! ## The operations -/

/-- 42_control.md R140: NOP changes no state element. -/
def Obligations.NopChangesNothing : Prop :=
  decodeByte 0x00 = .nop ∧ ∀ s : State, exec .nop s = .next s

/-- 40_checksum.md R94: CRC_INIT. -/
def Obligations.CrcInitResult : Prop :=
  decodeByte 0x01 = .crcInit ∧ ∀ s : State, exec .crcInit s = .next { s with
    block := { s.block with crc := 0xFF, status := { s.block.status with res := .ok, eidx := 0 } } }

/-- 40_checksum.md R95: CRC_BYTE, its corner cases and its worked example. -/
def Obligations.CrcByteResult : Prop :=
  decodeByte 0x02 = .crcByte ∧
  (∀ s : State, exec .crcByte s = .next { s with
    block := { s.block with
      crc := crcUpdate s.block.crc s.block.din, status := { s.block.status with res := .ok, eidx := 0 } } }) ∧
  (∀ a : Byte, crcUpdate a a = 0x00) ∧ crcUpdate 0xFF 0xBE = 0x0C ∧ crcUpdate 0x0C 0xEF = 0x92

/-- 40_checksum.md R96: CRC_WORD, its corner cases and its worked example. -/
def Obligations.CrcWordResult : Prop :=
  decodeByte 0x03 = .crcWord ∧
  (∀ s : State, exec .crcWord s = .next { s with
    block := { s.block with
      crc := checksum [s.block.parHi, s.block.parLo], status := { s.block.status with res := .ok, eidx := 0 } } }) ∧
  checksum [0x00, 0x00] = 0x81 ∧ checksum [0xFF, 0xFF] = 0xAC ∧ checksum [0xFF, 0x00] = 0x00 ∧
  checksum [0xBE, 0xEF] = 0x92

/-- 41_frame_codec.md R112: ENC_RD. -/
def Obligations.EncRdResult : Prop :=
  decodeByte 0x04 = .encRd ∧ ∀ s : State, exec .encRd s = .next { s with
    block := { s.block with
      txb := #v[s.block.opcHi, s.block.opcLo, 0x00, 0x00, 0x00], txlen := 2,
      status := { s.block.status with res := .ok, eidx := 0 } } }

/-- 41_frame_codec.md R113: ENC_WR, its corner cases and its worked example. -/
def Obligations.EncWrResult : Prop :=
  decodeByte 0x05 = .encWr ∧
  (∀ s : State, exec .encWr s = .next { s with
    block := { s.block with
      txb := #v[s.block.opcHi, s.block.opcLo, s.block.parHi, s.block.parLo, checksum [s.block.parHi, s.block.parLo]],
      txlen := 5, status := { s.block.status with res := .ok, eidx := 0 } } }) ∧
  checksum [0x00, 0x00] = 0x81 ∧ checksum [0xFF, 0xFF] = 0xAC ∧ checksum [0xFF, 0x00] = 0x00 ∧
  checksum [0x01, 0x90] = 0x4C

/-- 41_frame_codec.md R115: DECODE when the length is 3n and every group asked for passes. -/
def Obligations.DecodeSuccess : Prop :=
  decodeByte 0x06 = .decode ∧
  ∀ s : State, s.block.rxlen.toNat = 3 * s.block.wcnt.toNat →
    (∀ i : Fin 3, i.val < s.block.wcnt.toNat →
      s.block.rxb[3 * i.val + 2] = checksum [s.block.rxb[3 * i.val], s.block.rxb[3 * i.val + 1]]) →
    exec .decode s = .next { s with
      block := { s.block with
        word := #v[if 0 < s.block.wcnt.toNat then s.block.rxb[0] ++ s.block.rxb[1] else 0x0000,
          if 1 < s.block.wcnt.toNat then s.block.rxb[3] ++ s.block.rxb[4] else 0x0000,
          if 2 < s.block.wcnt.toNat then s.block.rxb[6] ++ s.block.rxb[7] else 0x0000]
        status := { res := .ok, eidx := 0, dvalid := true, dcnt := s.block.wcnt } } }

/-- 41_frame_codec.md R116: DECODE when RXLEN is not 3 times WCNT, which every RXLEN above 9 is not. -/
def Obligations.DecodeLengthError : Prop :=
  (∀ s : State, s.block.rxlen.toNat ≠ 3 * s.block.wcnt.toNat →
    exec .decode s = .next { s with
      block := { s.block with
        word := #v[0x0000, 0x0000, 0x0000]
        status := { res := .lengthError, eidx := 0, dvalid := false, dcnt := 0 } } }) ∧
  (∀ s : State, 9 < s.block.rxlen.toNat → s.block.rxlen.toNat ≠ 3 * s.block.wcnt.toNat)

/-- 41_frame_codec.md R117: DECODE when group i is the first to fail. -/
def Obligations.DecodeChecksumMismatch : Prop :=
  ∀ (s : State) (i : Fin 3), s.block.rxlen.toNat = 3 * s.block.wcnt.toNat → i.val < s.block.wcnt.toNat →
    s.block.rxb[3 * i.val + 2] ≠ checksum [s.block.rxb[3 * i.val], s.block.rxb[3 * i.val + 1]] →
    (∀ j : Fin 3, j < i →
      s.block.rxb[3 * j.val + 2] = checksum [s.block.rxb[3 * j.val], s.block.rxb[3 * j.val + 1]]) →
    exec .decode s = .next { s with
      block := { s.block with
        word := #v[0x0000, 0x0000, 0x0000]
        status := { res := .crcMismatch, eidx := BitVec.ofNat 2 i.val, dvalid := false, dcnt := 0 } } }

/-- 41_frame_codec.md R118: a failed DECODE leaves no decoded data, whatever stood in WORD before. -/
def Obligations.DecodeFailureLeavesNoData : Prop :=
  ∀ s t : State, exec .decode s = .next t →
    t.block.status.res = .lengthError ∨ t.block.status.res = .crcMismatch →
    (∀ i : Fin 3, t.block.word[i] = 0x0000) ∧ t.block.status.dvalid = false ∧ t.block.status.dcnt = 0

/-- 41_frame_codec.md R119: DECODE reads only RXB[0] to RXB[3n-1], leaves every RXB byte, and gives the same result again. -/
def Obligations.DecodeReadsOnlyItsGroups : Prop :=
  (∀ s s' : State, s.block.wcnt = s'.block.wcnt → s.block.rxlen = s'.block.rxlen →
    (∀ k : Fin 9, k.val < 3 * s.block.wcnt.toNat → s.block.rxb[k] = s'.block.rxb[k]) →
    ∃ t t', exec .decode s = .next t ∧ exec .decode s' = .next t' ∧
      t.block.word = t'.block.word ∧ t.block.status = t'.block.status) ∧
  (∀ s t : State, exec .decode s = .next t → t.block.rxb = s.block.rxb ∧ exec .decode t = .next t)

/-- 42_control.md R141, 30_encoding.md R73, R74: exactly the bytes 0x07 to 0xFF are illegal, and each performs the ILLEGAL_OP
outcome; so does every well-formed term of the two illegal rows. -/
def Obligations.IllegalByteOutcome : Prop :=
  (∀ v : Byte, (decodeByte v).isIllegal = true ↔ 7 ≤ v.toNat) ∧
  (∀ (v : Byte) (s : State), 7 ≤ v.toNat → exec (decodeByte v) s = .next { s with
    block := { s.block with status := { s.block.status with res := .illegalOp, eidx := 0 } } }) ∧
  (∀ (op : BitVec 4) (s : State), (Instr.illegalReservedOp op).wellFormed = true →
    exec (.illegalReservedOp op) s = .next { s with
      block := { s.block with status := { s.block.status with res := .illegalOp, eidx := 0 } } }) ∧
  (∀ (z op : BitVec 4) (s : State), (Instr.illegalZ z op).wellFormed = true →
    exec (.illegalZ z op) s = .next { s with
      block := { s.block with status := { s.block.status with res := .illegalOp, eidx := 0 } } })

/-- The model's choice (log 7), no rule of the spec: a term of an illegal row acts as its row does also where its fields lie
outside the row and it stands for no control byte. -/
def Obligations.IllegalTermsOutsideTheirRow : Prop :=
  (∀ (op : BitVec 4) (s : State), (Instr.illegalReservedOp op).wellFormed = false →
    exec (.illegalReservedOp op) s = .next { s with
      block := { s.block with status := { s.block.status with res := .illegalOp, eidx := 0 } } }) ∧
  (∀ (z op : BitVec 4) (s : State), (Instr.illegalZ z op).wellFormed = false →
    exec (.illegalZ z op) s = .next { s with
      block := { s.block with status := { s.block.status with res := .illegalOp, eidx := 0 } } })

/-! ## Frames of the operations: what each leaves unchanged, through what the port reads -/

/-- The frame of NOP (it writes nothing) and of the illegal control bytes (they write STATUS.RES and STATUS.EIDX). The terms of
the illegal rows that stand for no control byte are covered too: that they act as their row does is the model's choice
(log 7). -/
def Obligations.ControlFrame : Prop :=
  (∀ s t : State, exec .nop s = .next t →
    (∀ a, regRead t.block a = regRead s.block a) ∧
    t.port = s.port ∧ t.resetAsserted = s.resetAsserted ∧ t.rdata = s.rdata) ∧
  (∀ (i : Instr) (s t : State), i.isIllegal = true → exec i s = .next t →
    (∀ a, a ≠ 0x01 → regRead t.block a = regRead s.block a) ∧
    t.block.status.dvalid = s.block.status.dvalid ∧ t.block.status.dcnt = s.block.status.dcnt ∧
    t.port = s.port ∧ t.resetAsserted = s.resetAsserted ∧ t.rdata = s.rdata)

/-- The frame of CRC_INIT, CRC_BYTE and CRC_WORD: they write CRC, STATUS.RES and STATUS.EIDX (30_encoding.md R72). -/
def Obligations.ChecksumOperationsFrame : Prop :=
  ∀ (i : Instr) (s t : State), i = .crcInit ∨ i = .crcByte ∨ i = .crcWord → exec i s = .next t →
    (∀ a, a ≠ 0x01 → a ≠ 0x02 → regRead t.block a = regRead s.block a) ∧
    t.block.status.dvalid = s.block.status.dvalid ∧ t.block.status.dcnt = s.block.status.dcnt ∧
    t.port = s.port ∧ t.resetAsserted = s.resetAsserted ∧ t.rdata = s.rdata

/-- The frame of ENC_RD and ENC_WR: they write TXB, TXLEN, STATUS.RES and STATUS.EIDX (30_encoding.md R72). -/
def Obligations.EncodeOperationsFrame : Prop :=
  ∀ (i : Instr) (s t : State), i = .encRd ∨ i = .encWr → exec i s = .next t →
    (∀ a : Addr, a ≠ 0x01 → a ≠ 0x0A → ¬(0x10 ≤ a.toNat ∧ a.toNat ≤ 0x14) →
      regRead t.block a = regRead s.block a) ∧
    t.block.status.dvalid = s.block.status.dvalid ∧ t.block.status.dcnt = s.block.status.dcnt ∧
    t.port = s.port ∧ t.resetAsserted = s.resetAsserted ∧ t.rdata = s.rdata

/-- The frame of DECODE: it writes WORD and STATUS (30_encoding.md R72), on success and on failure. -/
def Obligations.DecodeOperationFrame : Prop :=
  ∀ s t : State, exec .decode s = .next t →
    (∀ a : Addr, a ≠ 0x01 → ¬(0x28 ≤ a.toNat ∧ a.toNat ≤ 0x2D) → regRead t.block a = regRead s.block a) ∧
    t.port = s.port ∧ t.resetAsserted = s.resetAsserted ∧ t.rdata = s.rdata

/-! ## Results and STATUS over the whole machine -/

/-- 60_exceptions.md R150, R151, R153: the one result each control byte reports, in the order of priority. -/
def Obligations.ResultPriority : Prop :=
  ∀ (v : Byte) (s : State), ∃ t, exec (decodeByte v) s = .next t ∧
    (7 ≤ v.toNat → t.block.status.res = .illegalOp ∧ t.block.status.eidx = 0) ∧
    (v = 0x00 → t.block.status = s.block.status) ∧
    (1 ≤ v.toNat → v.toNat ≤ 5 → t.block.status.res = .ok ∧ t.block.status.eidx = 0) ∧
    (v = 0x06 → s.block.rxlen.toNat ≠ 3 * s.block.wcnt.toNat →
      t.block.status.res = .lengthError ∧ t.block.status.eidx = 0) ∧
    (v = 0x06 → s.block.rxlen.toNat = 3 * s.block.wcnt.toNat →
      (∀ i : Fin 3, i.val < s.block.wcnt.toNat → s.block.groupOk i = false →
        (∀ j : Fin 3, j < i → s.block.groupOk j = true) →
        t.block.status.res = .crcMismatch ∧ t.block.status.eidx.toNat = i.val) ∧
      ((∀ i : Fin 3, i.val < s.block.wcnt.toNat → s.block.groupOk i = true) →
        t.block.status.res = .ok ∧ t.block.status.eidx = 0))

/-- 10_state.md R39: no operation reads STATUS. Two states that differ in STATUS alone differ, after any operation, in STATUS
alone; and every operation but NOP then reports the same RES and EIDX in both. -/
def Obligations.NoOperationReadsStatus : Prop :=
  ∀ (i : Instr) (s : State) (f : Status), ∃ t t',
    exec i s = .next t ∧ exec i { s with block := { s.block with status := f } } = .next t' ∧
    { t with block := { t.block with status := f } } = { t' with block := { t'.block with status := f } } ∧
    (i ≠ .nop → t.block.status.res = t'.block.status.res ∧ t.block.status.eidx = t'.block.status.eidx) ∧
    (i = .decode → t = t')

/-- 60_exceptions.md R155: DVALID and DCNT change only at DECODE and at reset, whatever event the port accepts; and so does
every WORD register. -/
def Obligations.DecodedDataChangesOnlyAtDecodeOrReset : Prop :=
  ∀ s t : State, step s = .next t →
    (∀ m, s.port.head? ≠ some (.access m (.write 0x00 0x06))) → (∀ l, s.port.head? ≠ some (.resetInput l)) →
    t.block.status.dvalid = s.block.status.dvalid ∧ t.block.status.dcnt = s.block.status.dcnt ∧
    t.block.word = s.block.word

/-! ## Invariants -/

/-- The invariant of Safety.lean holds right after reset. -/
def Obligations.ResetSatisfiesInvariant : Prop := State.reset.Inv

/-- Every step from any state that satisfies the invariant of Safety.lean keeps it: STATUS and WORD agree (10_state.md R37),
TXLEN and TXB agree and a five-byte frame carries its parameter's checksum (R38, 41_frame_codec.md R110), EIDX is an index
(10_state.md R26), and the reset input holds the reset values (70_reset_and_hazards.md R180). -/
def Obligations.StepKeepsInvariant : Prop :=
  ∀ s t : State, s.Inv → step s = .next t → t.Inv

/-- 10_state.md R37, R38: after reset and after every operation of every run, whatever events arrive and in whatever order,
STATUS and WORD agree and TXLEN and TXB agree. -/
def Obligations.EveryRunFromResetIsConsistent : Prop :=
  ∀ (es : List Event) (k : Nat) (t : State), Sys2Proof.core.run k (State.reset.offer es) = .next t →
    (t.block.status.dvalid = false → t.block.status.dcnt = 0 ∧ ∀ i : Fin 3, t.block.word[i] = 0x0000) ∧
    (t.block.status.dvalid = true → ∀ i : Fin 3, t.block.status.dcnt.toNat ≤ i.val → t.block.word[i] = 0x0000) ∧
    (t.block.txlen = 0 ∨ t.block.txlen = 2 ∨ t.block.txlen = 5) ∧
    (∀ i : Fin 5, t.block.txlen.toNat ≤ i.val → t.block.txb[i] = 0x00)

/-! ## The codec and the SCD4X functions -/

/-- 41_frame_codec.md R110: what an encode leaves to be sent is the two command bytes, or those and the parameter word with
its checksum. -/
def Obligations.OutgoingFrameLayout : Prop :=
  (∀ s : State, ∃ t, exec .encRd s = .next t ∧ t.block.outgoing = [s.block.opcHi, s.block.opcLo]) ∧
  (∀ s : State, ∃ t, exec .encWr s = .next t ∧ t.block.outgoing =
    [s.block.opcHi, s.block.opcLo, s.block.parHi, s.block.parLo, checksum [s.block.parHi, s.block.parLo]])

/-- 41_frame_codec.md R120: the operations agree with `encode_read_request`, `encode_write` and `decode_words`. -/
def Obligations.CodecAgreesWithScd4x : Prop :=
  (∀ s : State, ∃ t, exec .encRd s = .next t ∧ t.block.outgoing = encodeReadRequest s.block.opc ∧
    t.block.outgoing = encodeWrite s.block.opc none) ∧
  (∀ s : State, ∃ t, exec .encWr s = .next t ∧ t.block.outgoing = encodeWrite s.block.opc (some s.block.par)) ∧
  (∀ s : State, s.block.replyLength ≤ 9 → s.block.replyLength = 3 * s.block.wordCount →
    ∃ t, exec .decode s = .next t ∧
      ((∃ ws, decodeWords s.block.raw s.block.wordCount = .ok ws ∧
          t.block.status.res = .ok ∧ t.block.status.dcnt.toNat = ws.length ∧
          ∀ i : Fin 3, i.val < s.block.wordCount → ws[i.val]? = some t.block.word[i]) ∨
        (∃ i, decodeWords s.block.raw s.block.wordCount = .error (.checksumError i) ∧
          t.block.status.res = .crcMismatch ∧ t.block.status.eidx.toNat = i ∧
          t.block.status.dvalid = false ∧ t.block.status.dcnt = 0 ∧ ∀ j : Fin 3, t.block.word[j] = 0x0000)))

/-- 41_frame_codec.md R121: the parameter group of an encoded frame, fed back as a reply of one word, decodes to PAR. -/
def Obligations.EncodedParameterDecodes : Prop :=
  ∀ s t : State, exec .encWr s = .next t →
    ∀ u : State, u.block.rxb[0] = t.block.txb[2] → u.block.rxb[1] = t.block.txb[3] → u.block.rxb[2] = t.block.txb[4] →
      u.block.rxlen = 3 → u.block.wcnt = 1 →
      ∃ r, exec .decode u = .next r ∧ r.block.status.res = .ok ∧ r.block.word[0] = s.block.par

/-! ## Host level: the bus controller, transactions, scripts, several blocks -/

/-- 60_exceptions.md R165: the accesses by which a reply of at most nine bytes is delivered put its bytes into RXB from RXB[0] on,
in their order, and their number into RXLEN, and change nothing else of the block. -/
def Obligations.ReplyDelivery : Prop :=
  ∀ (m : Master) (bytes : List Byte) (s : State), bytes.length ≤ 9 → s.resetAsserted = false →
    ∃ t, serve (eventsOf m (loadReply bytes)) s = .next t ∧ t.port = s.port ∧
      t.block.rxlen.toNat = bytes.length ∧
      (∀ i : Fin 9, t.block.rxb[i] = bytes.getD i.val s.block.rxb[i]) ∧
      t.block = { s.block with rxb := t.block.rxb, rxlen := t.block.rxlen }

/-- 70_reset_and_hazards.md R185, R187: the reply part of a transaction. For every reply of 0 to 3 words with correct checksums,
delivered by the bus controller and then decoded by the host, the block reports OK and holds exactly those words, whatever the
block held before. -/
def Obligations.ReceivedReplyGivesItsWords : Prop :=
  ∀ (ws : List Word) (s : State), ws.length ≤ 3 → s.resetAsserted = false →
    ∃ t, serve (receiveReply (encodeReply ws) (BitVec.ofNat 8 ws.length)) s = .next t ∧ t.port = s.port ∧
      t.block.status.res = .ok ∧ t.block.status.eidx = 0 ∧ t.block.status.dvalid = true ∧
      t.block.status.dcnt.toNat = ws.length ∧ ∀ i : Fin 3, t.block.word[i] = ws.getD i.val 0x0000

/-- 70_reset_and_hazards.md R185, R186, R187: the request part of a transaction leaves the frame of the SCD4X encoder to be
sent. -/
def Obligations.RequestLeavesFrame : Prop :=
  (∀ (opcode : Word) (s : State), s.resetAsserted = false →
    ∃ t, serve (requestRead opcode) s = .next t ∧ t.port = s.port ∧ t.block.outgoing = encodeWrite opcode none) ∧
  (∀ (opcode param : Word) (s : State), s.resetAsserted = false →
    ∃ t, serve (requestWrite opcode param) s = .next t ∧ t.port = s.port ∧
      t.block.outgoing = encodeWrite opcode (some param))

/-- 70_reset_and_hazards.md R191: a data-ready word is ready unless its low 12 bits are all zero, with the default mask; and for
any other mask, unless the bits under it are. The mask is a parameter of the host model (93_implementation_defined.md U3); its
form as an argument is the model's choice (log 16). -/
def Obligations.DataReadyTest : Prop :=
  (∀ w : Word, dataReady w = false ↔ w.toNat % 4096 = 0) ∧
  (∀ w mask : Word, dataReady w mask = false ↔ ∀ i < 16, mask.getLsbD i = true → w.getLsbD i = false)

/-- 30_encoding.md R78: the port transaction words each pseudo-instruction expands to, in their order. -/
def Obligations.PseudoExpansions : Prop :=
  (∀ w : Word, (Pseudo.ldOpc w).words =
    [0x4400 ||| (hiByte w).zeroExtend 15, 0x4500 ||| (loByte w).zeroExtend 15]) ∧
  (∀ w : Word, (Pseudo.ldPar w).words =
    [0x4600 ||| (hiByte w).zeroExtend 15, 0x4700 ||| (loByte w).zeroExtend 15]) ∧
  Pseudo.encWrNone.words = [0x4004] ∧
  (∀ bytes : List Byte, (Pseudo.crcSpan bytes).words =
    0x4001 :: bytes.flatMap fun v => [0x4300 ||| v.zeroExtend 15, 0x4002]) ∧
  (∀ bytes : List Byte, 1 ≤ bytes.length → bytes.length ≤ 9 → (Pseudo.loadRx bytes).words =
    (bytes.mapIdx fun i v => BitVec.ofNat 15 (0x5800 + 0x100 * i) ||| v.zeroExtend 15) ++
      [BitVec.ofNat 15 (0x4900 + bytes.length)]) ∧
  (∀ n : Byte, (Pseudo.decodeN n).words = [0x4800 ||| n.zeroExtend 15, 0x4006]) ∧
  (∀ v : Byte, (Pseudo.ldCrc v).words = [0x4200 ||| v.zeroExtend 15])

/-- 60_exceptions.md R163, in the model's own form for several blocks, a list of states of which one steps at a time (the
model's choice, log 14): block `k` becomes what its step answers, every other block stays as it was, and no block is added or
lost. -/
def Obligations.BlocksShareNothing : Prop :=
  (∀ (k : Nat) (sys : List State) (s t : State), sys[k]? = some s → step s = .next t →
    (stepOne k sys)[k]? = some t) ∧
  (∀ (k j : Nat) (sys : List State), j ≠ k → (stepOne k sys)[j]? = sys[j]?) ∧
  (∀ (k : Nat) (sys : List State), (stepOne k sys).length = sys.length)
end

