-- ==== Sys2Proof/Laws/Bits.lean ====
section
/-! SUPPORT. A word and its two bytes (00_scope.md R5, 20_memory.md R52). -/

namespace Sys2Proof.Machine

@[simp] theorem hiByte_wordOf (hi lo : Byte) : hiByte (wordOf hi lo) = hi := by
  apply BitVec.eq_of_getLsbD_eq
  intro i hlt
  have part := BitVec.getLsbD_append (x := hi) (y := lo) (i := 8 + i)
  simp only [hiByte, BitVec.getLsbD_extractLsb', hlt, decide_true, Bool.true_and]
  refine part.trans ?_
  rw [if_neg (by omega), Nat.add_sub_cancel_left]

@[simp] theorem loByte_wordOf (hi lo : Byte) : loByte (wordOf hi lo) = lo := by
  apply BitVec.eq_of_getLsbD_eq
  intro i hlt
  have part := BitVec.getLsbD_append (x := hi) (y := lo) (i := i)
  simp only [loByte, BitVec.getLsbD_extractLsb', hlt, decide_true, Bool.true_and, Nat.zero_add]
  exact part.trans (if_pos hlt)

@[simp] theorem wordOf_bytes (w : Word) : wordOf (hiByte w) (loByte w) = w := by
  apply BitVec.eq_of_getLsbD_eq
  intro i hlt
  have part := BitVec.getLsbD_append (x := hiByte w) (y := loByte w) (i := i)
  refine part.trans ?_
  simp only [hiByte, loByte, BitVec.getLsbD_extractLsb']
  split
  · simp [*]
  · rename_i h
    rw [show 8 + (i - 8) = i by omega]
    simp only [Bool.and_eq_right_iff_imp, decide_eq_true_eq]
    omega

end Sys2Proof.Machine
end

