-- ==== Sys2Proof/Laws/Crc.lean ====
section
/-! SUPPORT. The small lemmas of the checksum function (40_checksum.md R90 to R93). -/

namespace Sys2Proof.Machine

@[simp] theorem crcSteps_zero (x : Byte) : crcSteps 0 x = x := rfl

theorem crcSteps_succ (n : Nat) (x : Byte) : crcSteps (n + 1) x = crcSteps n (crcStep x) := rfl

@[simp] theorem crcFold_nil (a : Byte) : crcFold a [] = a := rfl

@[simp] theorem crcFold_cons (a b : Byte) (s : List Byte) : crcFold a (b :: s) = crcFold (crcUpdate a b) s := rfl

theorem crcFold_append (a : Byte) (s t : List Byte) : crcFold a (s ++ t) = crcFold (crcFold a s) t :=
  List.foldl_append

@[simp] theorem checksum_nil : checksum [] = 0xFF := rfl

theorem checksum_eq_fold (s : List Byte) : checksum s = crcFold 0xFF s := rfl

@[simp] theorem groupCheck_iff (hi lo c : Byte) : groupCheck hi lo c = true ↔ c = checksum [hi, lo] := by
  simp [groupCheck]

/-- One iteration distributes over XOR (the ground of 40_checksum.md R93). -/
theorem crcStep_xor (a b : Byte) : crcStep (a ^^^ b) = crcStep a ^^^ crcStep b := by
  have shift : (a ^^^ b) <<< 1 = a <<< 1 ^^^ b <<< 1 := BitVec.shiftLeft_xor_distrib a b 1
  have cancel (x y p : Byte) : x ^^^ p ^^^ (y ^^^ p) = x ^^^ y := by
    rw [BitVec.xor_assoc, BitVec.xor_comm y p, ← BitVec.xor_assoc p, BitVec.xor_self, BitVec.zero_xor]
  unfold crcStep
  rw [BitVec.getLsbD_xor, shift]
  cases a.getLsbD 7 <;> cases b.getLsbD 7 <;> simp [cancel] <;> ac_rfl

theorem crcSteps_xor (n : Nat) (a b : Byte) : crcSteps n (a ^^^ b) = crcSteps n a ^^^ crcSteps n b := by
  induction n generalizing a b with
  | zero => rfl
  | succ n ih => rw [crcSteps_succ, crcStep_xor, ih, ← crcSteps_succ, ← crcSteps_succ]

end Sys2Proof.Machine
end

