-- ==== Sys2Proof/Laws/Decode.lean ====
section
/-! SUPPORT. The small lemmas of the decoder and the encoder (30_encoding.md R71 to R74, R76). -/

namespace Sys2Proof

@[simp] theorem fieldZ_append (z op : BitVec 4) : fieldZ (z ++ op) = z := by
  revert z op; decide

@[simp] theorem fieldOp_append (z op : BitVec 4) : fieldOp (z ++ op) = op := by
  revert z op; decide

theorem append_fields (v : Byte) : fieldZ v ++ fieldOp v = v := by
  revert v; decide

/-- A byte with Z not 0 is of the second illegal row (30_encoding.md R74). -/
theorem decodeByte_of_fieldZ_ne (v : Byte) (h : fieldZ v ≠ 0) : decodeByte v = .illegalZ (fieldZ v) (fieldOp v) := by
  exact if_neg h

/-- Every list with a byte in it decodes, to one operation and the bytes after it. -/
@[simp] theorem decode_cons (v : Byte) (rest : List Byte) : decode (v :: rest) = .ok (decodeByte v, rest) := rfl

@[simp] theorem decodeTableWord_eq (nbits w : Nat) : decodeTableWord nbits w = some (decodeByte (ctrlByteOf nbits w)) := rfl

@[simp] theorem ctrlByteOf_byte (v : Byte) : ctrlByteOf 8 v.toNat = v := by
  simp [ctrlByteOf, Nat.mod_eq_of_lt v.isLt]

/-- Bit 14 of a transaction word is its WE (30_encoding.md R76). -/
theorem portWord_we (we : BitVec 1) (a : Addr) (v : Byte) : ((we ++ a ++ v : BitVec 15)).getLsbD 14 = we.getLsbD 0 := by
  have h := BitVec.getLsbD_append (x := we ++ a) (y := v) (i := 14)
  have h' := BitVec.getLsbD_append (x := we) (y := a) (i := 6)
  exact h.trans h'

/-- Bits 13:8 of a transaction word are its ADDR (30_encoding.md R76). -/
theorem portWord_addr (we : BitVec 1) (a : Addr) (v : Byte) : ((we ++ a ++ v : BitVec 15)).extractLsb' 8 6 = a := by
  apply BitVec.eq_of_getLsbD_eq; intro i hi
  have h := BitVec.getLsbD_append (x := we ++ a) (y := v) (i := 8 + i)
  have h' := BitVec.getLsbD_append (x := we) (y := a) (i := i)
  simp only [BitVec.getLsbD_extractLsb', hi, decide_true, Bool.true_and]
  refine h.trans ?_
  rw [if_neg (by omega), Nat.add_sub_cancel_left, h', if_pos hi]

/-- Bits 7:0 of a transaction word are its DATA (30_encoding.md R76). -/
theorem portWord_data (we : BitVec 1) (a : Addr) (v : Byte) : ((we ++ a ++ v : BitVec 15)).extractLsb' 0 8 = v := by
  apply BitVec.eq_of_getLsbD_eq; intro i hi
  have h := BitVec.getLsbD_append (x := we ++ a) (y := v) (i := i)
  simp only [BitVec.getLsbD_extractLsb', hi, decide_true, Bool.true_and, Nat.zero_add]
  exact h.trans (if_pos hi)

end Sys2Proof
end

