-- ==== Sys2Proof/Laws/Frame.lean ====
section
/-! SUPPORT. What DECODE does to the block, case by case (41_frame_codec.md R114). -/

namespace Sys2Proof.Machine

/-- A group is reported exactly when it is asked for, fails, and every earlier one passes (41_frame_codec.md R117). -/
theorem firstBadGroup_eq_some (b : Block) (i : Fin 3) :
    b.firstBadGroup = some i ↔ i.val < b.wordCount ∧ b.groupOk i = false ∧ ∀ j < i, b.groupOk j = true := by
  have bound : b.wordCount ≤ 3 := by have := b.wcnt.isLt; simp only [Block.wordCount]; omega
  have cases : b.wordCount = 0 ∨ b.wordCount = 1 ∨ b.wordCount = 2 ∨ b.wordCount = 3 := by omega
  have below (j : Fin 3) : (j < 0 ↔ False) ∧ (j < 1 ↔ j = 0) ∧ (j < 2 ↔ j = 0 ∨ j = 1) := by revert j; decide
  unfold Block.firstBadGroup
  match i with
  | 0 => rcases cases with h | h | h | h <;> cases h0 : b.groupOk 0 <;> cases h1 : b.groupOk 1 <;>
      cases h2 : b.groupOk 2 <;> simp [List.find?, h, h0, h1, h2]
  | 1 => rcases cases with h | h | h | h <;> cases h0 : b.groupOk 0 <;> cases h1 : b.groupOk 1 <;>
      cases h2 : b.groupOk 2 <;> simp [List.find?, h, h0, h1, h2, below]
  | 2 => rcases cases with h | h | h | h <;> cases h0 : b.groupOk 0 <;> cases h1 : b.groupOk 1 <;>
      cases h2 : b.groupOk 2 <;> simp [List.find?, h, h0, h1, h2, below]

/-- No group is reported exactly when every group asked for passes (41_frame_codec.md R115). -/
theorem firstBadGroup_eq_none (b : Block) :
    b.firstBadGroup = none ↔ ∀ i : Fin 3, i.val < b.wordCount → b.groupOk i = true := by
  simp [Block.firstBadGroup, Fin.forall_fin_succ]

/-- What DECODE looks at is decided by RXB, RXLEN and WCNT (30_encoding.md R72). -/
theorem reply_congr {b c : Block} (hr : c.rxb = b.rxb) (hl : c.rxlen = b.rxlen) (hw : c.wcnt = b.wcnt) :
    c.firstBadGroup = b.firstBadGroup ∧ c.replyLength = b.replyLength ∧ c.wordCount = b.wordCount ∧
      ∀ i, c.groupWord i = b.groupWord i := by
  cases b; cases c
  cases hr; cases hl; cases hw
  exact ⟨rfl, rfl, rfl, fun _ => rfl⟩

/-- DECODE with `GROUP_BYTES` written out (41_frame_codec.md R114). -/
theorem decodeReply_eq (b : Block) : decodeReply b =
    if b.replyLength ≠ 3 * b.wordCount then decodeFail .lengthError 0 b
    else
      match b.firstBadGroup with
      | some i => decodeFail .crcMismatch (BitVec.ofNat 2 i.val) b
      | none => decodeOk b := rfl

/-- The three ways DECODE ends (41_frame_codec.md R115 to R117). -/
theorem decodeReply_cases (b : Block) :
    (b.replyLength ≠ 3 * b.wordCount ∧ decodeReply b = decodeFail .lengthError 0 b) ∨
    (∃ i : Fin 3, b.replyLength = 3 * b.wordCount ∧ i.val < b.wordCount ∧ b.groupOk i = false ∧
      (∀ j < i, b.groupOk j = true) ∧ decodeReply b = decodeFail .crcMismatch (BitVec.ofNat 2 i.val) b) ∨
    (b.replyLength = 3 * b.wordCount ∧ (∀ i : Fin 3, i.val < b.wordCount → b.groupOk i = true) ∧
      decodeReply b = decodeOk b) := by
  by_cases hl : b.replyLength = 3 * b.wordCount
  · right
    cases hf : b.firstBadGroup with
    | some i =>
      obtain ⟨hi, bad, earlier⟩ := (firstBadGroup_eq_some b i).mp hf
      exact .inl ⟨i, hl, hi, bad, earlier, by simp [decodeReply, hl, hf]⟩
    | none =>
      exact .inr ⟨hl, (firstBadGroup_eq_none b).mp hf, by simp [decodeReply, hl, hf]⟩
  · exact .inl ⟨hl, by simp [decodeReply, hl]⟩

end Sys2Proof.Machine
end

