-- ==== Sys2Proof/Laws/PerInstr.lean ====
section
/-! SUPPORT. Statements made for each operation as syntax, one lemma for each constructor. -/

namespace Sys2Proof.Laws.RowCovers

/-- The control byte of a well-formed operation lies in its own row of spec/opcode_table.json and in no other. -/
def Statement (i : Instr) : Prop :=
  i.wellFormed = true → ∀ r ∈ opcodeTable, r.covers (encode i) = decide (r.mnemonic = i.mnemonic)

theorem nop : Statement .nop := by unfold Statement; decide
theorem crcInit : Statement .crcInit := by unfold Statement; decide
theorem crcByte : Statement .crcByte := by unfold Statement; decide
theorem crcWord : Statement .crcWord := by unfold Statement; decide
theorem encRd : Statement .encRd := by unfold Statement; decide
theorem encWr : Statement .encWr := by unfold Statement; decide
theorem decode : Statement .decode := by unfold Statement; decide
theorem illegalReservedOp (op : BitVec 4) : Statement (.illegalReservedOp op) := by
  unfold Statement; revert op; decide
theorem illegalZ (z op : BitVec 4) : Statement (.illegalZ z op) := by
  unfold Statement; revert z op; decide

end Sys2Proof.Laws.RowCovers
end

