-- ==== Sys2Proof/Laws/State.lean ====
section
/-! SUPPORT. One lemma for each field of State under each update, true by rfl, so that no later proof unfolds an update. -/

namespace Sys2Proof.Machine

@[simp] theorem withBlock_resetAsserted (s : State) (b : Block) : (s.withBlock b).resetAsserted = s.resetAsserted := rfl
@[simp] theorem withBlock_port (s : State) (b : Block) : (s.withBlock b).port = s.port := rfl
@[simp] theorem withBlock_rdata (s : State) (b : Block) : (s.withBlock b).rdata = s.rdata := rfl
@[simp] theorem withBlock_block (s : State) (b : Block) : (s.withBlock b).block = b := rfl
@[simp] theorem withBlock_self (s : State) : s.withBlock s.block = s := rfl
@[simp] theorem withBlock_withBlock (s : State) (b c : Block) : (s.withBlock b).withBlock c = s.withBlock c := rfl

@[simp] theorem portRead_block (a : Addr) (s : State) : (portRead a s).block = s.block := rfl
@[simp] theorem portRead_resetAsserted (a : Addr) (s : State) : (portRead a s).resetAsserted = s.resetAsserted := rfl
@[simp] theorem portRead_port (a : Addr) (s : State) : (portRead a s).port = s.port := rfl
@[simp] theorem portRead_rdata (a : Addr) (s : State) : (portRead a s).rdata = some (regRead s.block a) := rfl

@[simp] theorem succeed_eq (b : Block) : succeed b = raise .ok 0 b := rfl

@[simp] theorem raise_status_res (r : Result) (n : BitVec 2) (b : Block) :
    (raise r n b).status.res = r := rfl
@[simp] theorem raise_status_eidx (r : Result) (n : BitVec 2) (b : Block) :
    (raise r n b).status.eidx = n := rfl
@[simp] theorem raise_status_dvalid (r : Result) (n : BitVec 2) (b : Block) :
    (raise r n b).status.dvalid = b.status.dvalid := rfl
@[simp] theorem raise_status_dcnt (r : Result) (n : BitVec 2) (b : Block) :
    (raise r n b).status.dcnt = b.status.dcnt := rfl
@[simp] theorem raise_crc (r : Result) (n : BitVec 2) (b : Block) :
    (raise r n b).crc = b.crc := rfl
@[simp] theorem raise_din (r : Result) (n : BitVec 2) (b : Block) :
    (raise r n b).din = b.din := rfl
@[simp] theorem raise_opcHi (r : Result) (n : BitVec 2) (b : Block) :
    (raise r n b).opcHi = b.opcHi := rfl
@[simp] theorem raise_opcLo (r : Result) (n : BitVec 2) (b : Block) :
    (raise r n b).opcLo = b.opcLo := rfl
@[simp] theorem raise_parHi (r : Result) (n : BitVec 2) (b : Block) :
    (raise r n b).parHi = b.parHi := rfl
@[simp] theorem raise_parLo (r : Result) (n : BitVec 2) (b : Block) :
    (raise r n b).parLo = b.parLo := rfl
@[simp] theorem raise_wcnt (r : Result) (n : BitVec 2) (b : Block) :
    (raise r n b).wcnt = b.wcnt := rfl
@[simp] theorem raise_rxlen (r : Result) (n : BitVec 2) (b : Block) :
    (raise r n b).rxlen = b.rxlen := rfl
@[simp] theorem raise_txlen (r : Result) (n : BitVec 2) (b : Block) :
    (raise r n b).txlen = b.txlen := rfl
@[simp] theorem raise_txb (r : Result) (n : BitVec 2) (b : Block) :
    (raise r n b).txb = b.txb := rfl
@[simp] theorem raise_rxb (r : Result) (n : BitVec 2) (b : Block) :
    (raise r n b).rxb = b.rxb := rfl
@[simp] theorem raise_word (r : Result) (n : BitVec 2) (b : Block) :
    (raise r n b).word = b.word := rfl

@[simp] theorem setDecoded_status_res (d : Bool) (n : BitVec 2) (b : Block) :
    (setDecoded d n b).status.res = b.status.res := rfl
@[simp] theorem setDecoded_status_eidx (d : Bool) (n : BitVec 2) (b : Block) :
    (setDecoded d n b).status.eidx = b.status.eidx := rfl
@[simp] theorem setDecoded_status_dvalid (d : Bool) (n : BitVec 2) (b : Block) :
    (setDecoded d n b).status.dvalid = d := rfl
@[simp] theorem setDecoded_status_dcnt (d : Bool) (n : BitVec 2) (b : Block) :
    (setDecoded d n b).status.dcnt = n := rfl
@[simp] theorem setDecoded_crc (d : Bool) (n : BitVec 2) (b : Block) :
    (setDecoded d n b).crc = b.crc := rfl
@[simp] theorem setDecoded_din (d : Bool) (n : BitVec 2) (b : Block) :
    (setDecoded d n b).din = b.din := rfl
@[simp] theorem setDecoded_opcHi (d : Bool) (n : BitVec 2) (b : Block) :
    (setDecoded d n b).opcHi = b.opcHi := rfl
@[simp] theorem setDecoded_opcLo (d : Bool) (n : BitVec 2) (b : Block) :
    (setDecoded d n b).opcLo = b.opcLo := rfl
@[simp] theorem setDecoded_parHi (d : Bool) (n : BitVec 2) (b : Block) :
    (setDecoded d n b).parHi = b.parHi := rfl
@[simp] theorem setDecoded_parLo (d : Bool) (n : BitVec 2) (b : Block) :
    (setDecoded d n b).parLo = b.parLo := rfl
@[simp] theorem setDecoded_wcnt (d : Bool) (n : BitVec 2) (b : Block) :
    (setDecoded d n b).wcnt = b.wcnt := rfl
@[simp] theorem setDecoded_rxlen (d : Bool) (n : BitVec 2) (b : Block) :
    (setDecoded d n b).rxlen = b.rxlen := rfl
@[simp] theorem setDecoded_txlen (d : Bool) (n : BitVec 2) (b : Block) :
    (setDecoded d n b).txlen = b.txlen := rfl
@[simp] theorem setDecoded_txb (d : Bool) (n : BitVec 2) (b : Block) :
    (setDecoded d n b).txb = b.txb := rfl
@[simp] theorem setDecoded_rxb (d : Bool) (n : BitVec 2) (b : Block) :
    (setDecoded d n b).rxb = b.rxb := rfl
@[simp] theorem setDecoded_word (d : Bool) (n : BitVec 2) (b : Block) :
    (setDecoded d n b).word = b.word := rfl

@[simp] theorem setFrame_status_res (f : Vector Byte 5) (l : BitVec 3) (b : Block) :
    (setFrame f l b).status.res = b.status.res := rfl
@[simp] theorem setFrame_status_eidx (f : Vector Byte 5) (l : BitVec 3) (b : Block) :
    (setFrame f l b).status.eidx = b.status.eidx := rfl
@[simp] theorem setFrame_status_dvalid (f : Vector Byte 5) (l : BitVec 3) (b : Block) :
    (setFrame f l b).status.dvalid = b.status.dvalid := rfl
@[simp] theorem setFrame_status_dcnt (f : Vector Byte 5) (l : BitVec 3) (b : Block) :
    (setFrame f l b).status.dcnt = b.status.dcnt := rfl
@[simp] theorem setFrame_crc (f : Vector Byte 5) (l : BitVec 3) (b : Block) :
    (setFrame f l b).crc = b.crc := rfl
@[simp] theorem setFrame_din (f : Vector Byte 5) (l : BitVec 3) (b : Block) :
    (setFrame f l b).din = b.din := rfl
@[simp] theorem setFrame_opcHi (f : Vector Byte 5) (l : BitVec 3) (b : Block) :
    (setFrame f l b).opcHi = b.opcHi := rfl
@[simp] theorem setFrame_opcLo (f : Vector Byte 5) (l : BitVec 3) (b : Block) :
    (setFrame f l b).opcLo = b.opcLo := rfl
@[simp] theorem setFrame_parHi (f : Vector Byte 5) (l : BitVec 3) (b : Block) :
    (setFrame f l b).parHi = b.parHi := rfl
@[simp] theorem setFrame_parLo (f : Vector Byte 5) (l : BitVec 3) (b : Block) :
    (setFrame f l b).parLo = b.parLo := rfl
@[simp] theorem setFrame_wcnt (f : Vector Byte 5) (l : BitVec 3) (b : Block) :
    (setFrame f l b).wcnt = b.wcnt := rfl
@[simp] theorem setFrame_rxlen (f : Vector Byte 5) (l : BitVec 3) (b : Block) :
    (setFrame f l b).rxlen = b.rxlen := rfl
@[simp] theorem setFrame_txlen (f : Vector Byte 5) (l : BitVec 3) (b : Block) :
    (setFrame f l b).txlen = l := rfl
@[simp] theorem setFrame_txb (f : Vector Byte 5) (l : BitVec 3) (b : Block) :
    (setFrame f l b).txb = f := rfl
@[simp] theorem setFrame_rxb (f : Vector Byte 5) (l : BitVec 3) (b : Block) :
    (setFrame f l b).rxb = b.rxb := rfl
@[simp] theorem setFrame_word (f : Vector Byte 5) (l : BitVec 3) (b : Block) :
    (setFrame f l b).word = b.word := rfl
@[simp] theorem setFrame_status (f : Vector Byte 5) (l : BitVec 3) (b : Block) : (setFrame f l b).status = b.status := rfl

@[simp] theorem setWords_status_res (ws : Vector Word 3) (b : Block) :
    (setWords ws b).status.res = b.status.res := rfl
@[simp] theorem setWords_status_eidx (ws : Vector Word 3) (b : Block) :
    (setWords ws b).status.eidx = b.status.eidx := rfl
@[simp] theorem setWords_status_dvalid (ws : Vector Word 3) (b : Block) :
    (setWords ws b).status.dvalid = b.status.dvalid := rfl
@[simp] theorem setWords_status_dcnt (ws : Vector Word 3) (b : Block) :
    (setWords ws b).status.dcnt = b.status.dcnt := rfl
@[simp] theorem setWords_crc (ws : Vector Word 3) (b : Block) :
    (setWords ws b).crc = b.crc := rfl
@[simp] theorem setWords_din (ws : Vector Word 3) (b : Block) :
    (setWords ws b).din = b.din := rfl
@[simp] theorem setWords_opcHi (ws : Vector Word 3) (b : Block) :
    (setWords ws b).opcHi = b.opcHi := rfl
@[simp] theorem setWords_opcLo (ws : Vector Word 3) (b : Block) :
    (setWords ws b).opcLo = b.opcLo := rfl
@[simp] theorem setWords_parHi (ws : Vector Word 3) (b : Block) :
    (setWords ws b).parHi = b.parHi := rfl
@[simp] theorem setWords_parLo (ws : Vector Word 3) (b : Block) :
    (setWords ws b).parLo = b.parLo := rfl
@[simp] theorem setWords_wcnt (ws : Vector Word 3) (b : Block) :
    (setWords ws b).wcnt = b.wcnt := rfl
@[simp] theorem setWords_rxlen (ws : Vector Word 3) (b : Block) :
    (setWords ws b).rxlen = b.rxlen := rfl
@[simp] theorem setWords_txlen (ws : Vector Word 3) (b : Block) :
    (setWords ws b).txlen = b.txlen := rfl
@[simp] theorem setWords_txb (ws : Vector Word 3) (b : Block) :
    (setWords ws b).txb = b.txb := rfl
@[simp] theorem setWords_rxb (ws : Vector Word 3) (b : Block) :
    (setWords ws b).rxb = b.rxb := rfl
@[simp] theorem setWords_word (ws : Vector Word 3) (b : Block) :
    (setWords ws b).word = ws := rfl
@[simp] theorem setWords_status (ws : Vector Word 3) (b : Block) : (setWords ws b).status = b.status := rfl

end Sys2Proof.Machine
end

