-- ==== Sys2Proof/Laws/Port.lean ====
section
/-! SUPPORT. What a port access, an operation and a step can do, said once. -/

namespace Sys2Proof.Machine

/-- Every register stands at its own address (20_memory.md R51). -/
@[simp] theorem regAt_addrOf (r : Reg) : regAt (addrOf r) = some r := by
  cases r with
  | txb i => revert i; decide
  | rxb i => revert i; decide
  | wordHi i => revert i; decide
  | wordLo i => revert i; decide
  | _ => rfl

theorem regAt_eq_some {a : Addr} {r : Reg} (h : regAt a = some r) : a = addrOf r := by
  revert r
  revert a
  decide +revert

@[simp] theorem regRead_addrOf (b : Block) (r : Reg) : regRead b (addrOf r) = readReg b r := by
  simp [regRead]

@[simp] theorem regWriteData_addrOf (b : Block) (r : Reg) (v : Byte) : regWriteData (addrOf r) v b = writeReg v b r := by
  simp [regWriteData]

/-- No operation stops, and none changes anything but the block. -/
theorem exec_eq_withBlock (i : Instr) (s : State) : ∃ b, exec i s = .next (s.withBlock b) := by
  cases i with
  | nop => exact ⟨s.block, rfl⟩
  | crcInit => exact ⟨_, rfl⟩
  | crcByte => exact ⟨_, rfl⟩
  | crcWord => exact ⟨_, rfl⟩
  | encRd => exact ⟨_, rfl⟩
  | encWr => exact ⟨_, rfl⟩
  | decode => exact ⟨_, rfl⟩
  | illegalReservedOp op => exact ⟨_, rfl⟩
  | illegalZ z op => exact ⟨_, rfl⟩

/-- The ways an operation can leave the block: untouched, with a result and a new CRC, with a result and a new frame, or
as DECODE leaves it. -/
theorem exec_cases {i : Instr} {s t : State} (h : exec i s = .next t) :
    (i = .nop ∧ t = s) ∨
    (∃ c, t = s.withBlock (raise .ok 0 { s.block with crc := c })) ∨
    (i = .encRd ∧ t = s.withBlock (raise .ok 0 (setFrame #v[s.block.opcHi, s.block.opcLo, 0, 0, 0] 2 s.block))) ∨
    (i = .encWr ∧ t = s.withBlock (raise .ok 0 (setFrame #v[s.block.opcHi, s.block.opcLo, s.block.parHi, s.block.parLo,
      checksum [s.block.parHi, s.block.parLo]] 5 s.block))) ∨
    (i = .decode ∧ t = s.withBlock (decodeReply s.block)) ∨
    t = s.withBlock (raise .illegalOp 0 s.block) := by
  cases i with
  | nop => cases h; exact .inl ⟨rfl, rfl⟩
  | crcInit => cases h; exact .inr (.inl ⟨_, rfl⟩)
  | crcByte => cases h; exact .inr (.inl ⟨_, rfl⟩)
  | crcWord => cases h; exact .inr (.inl ⟨_, rfl⟩)
  | encRd => cases h; exact .inr (.inr (.inl ⟨rfl, rfl⟩))
  | encWr => cases h; exact .inr (.inr (.inr (.inl ⟨rfl, rfl⟩)))
  | decode => cases h; exact .inr (.inr (.inr (.inr (.inl ⟨rfl, rfl⟩))))
  | illegalReservedOp op => cases h; exact .inr (.inr (.inr (.inr (.inr rfl))))
  | illegalZ z op => cases h; exact .inr (.inr (.inr (.inr (.inr rfl))))

/-- What accepting an event does: the reset input, an access during reset, a read, an operation, or a data write. -/
theorem accept_cases {e : Event} {s t : State} (h : accept e s = .next t) :
    (∃ l, e = .resetInput l ∧ t = setResetInput l s) ∨
    (∃ m x, e = .access m x ∧ s.resetAsserted = true ∧ t = accessInReset x s) ∨
    (∃ m a, e = .access m (.read a) ∧ s.resetAsserted = false ∧ t = portRead a s) ∨
    (∃ m v, e = .access m (.write ctrlAddr v) ∧ s.resetAsserted = false ∧
      exec (decodeByte v) { s with rdata := none } = .next t) ∨
    (∃ m a v, e = .access m (.write a v) ∧ a ≠ ctrlAddr ∧ s.resetAsserted = false ∧
      t = { s with rdata := none, block := regWriteData a v s.block }) := by
  cases e with
  | resetInput l => cases h; exact .inl ⟨l, rfl, rfl⟩
  | access m x =>
    cases hr : s.resetAsserted with
    | true => simp [accept, hr] at h; exact .inr (.inl ⟨m, x, rfl, rfl, h.symm⟩)
    | false =>
      cases x with
      | read a => simp [accept, hr, portAccess] at h; exact .inr (.inr (.inl ⟨m, a, rfl, rfl, h.symm⟩))
      | write a v =>
        by_cases ha : a = ctrlAddr
        · subst ha
          simp only [accept, hr, portAccess, regWrite] at h
          exact .inr (.inr (.inr (.inl ⟨m, v, rfl, rfl, by simpa using h⟩)))
        · simp [accept, hr, portAccess, regWrite, ha] at h
          exact .inr (.inr (.inr (.inr ⟨m, a, v, rfl, ha, rfl, h.symm⟩)))

/-- An outcome with the pending events of its next state replaced. -/
def withPort (p : List Event) (o : Host.Outcome State Fault Refusal) : Host.Outcome State Fault Refusal :=
  match o with
  | .next t => .next { t with port := p }
  | .fault r => .fault r
  | .refused r => .refused r

@[simp] theorem withPort_next (p : List Event) (t : State) : withPort p (.next t) = .next { t with port := p } := rfl

/-- No operation reads or changes the pending events. -/
theorem exec_withPort (i : Instr) (s : State) (p : List Event) :
    exec i { s with port := p } = withPort p (exec i s) := by cases i <;> rfl

/-- Accepting an event does not depend on the events that wait after it. -/
theorem accept_withPort (e : Event) (s : State) (p : List Event) :
    accept e { s with port := p } = withPort p (accept e s) := by
  cases e with
  | resetInput l => simp only [accept, setResetInput, withPort]; split <;> rfl
  | access m x =>
    cases hr : s.resetAsserted with
    | true => cases x <;> simp [accept, hr, accessInReset, portRead]
    | false =>
      cases x with
      | read a => simp [accept, hr, portAccess, portRead]
      | write a v =>
        have hop := exec_withPort (decodeByte v) { s with rdata := none } p
        by_cases ha : a = ctrlAddr
        · simpa [accept, hr, portAccess, regWrite, ha] using hop
        · simp [accept, hr, portAccess, regWrite, ha, State.withBlock]

/-- Accepting an event leaves the events that wait after it. -/
theorem accept_port {e : Event} {s t : State} (h : accept e s = .next t) : t.port = s.port := by
  have same := accept_withPort e s s.port
  rw [h, withPort_next] at same
  simpa using congrArg (fun o => match o with | .next (u : State) => u.port | _ => []) same.symm |>.symm

@[simp] theorem step_idle (s : State) (h : s.port = []) : step s = .next s := by simp [step, h]

theorem step_cons (s : State) {e : Event} {rest : List Event} (h : s.port = e :: rest) :
    step s = accept e { s with port := rest } := by simp [step, h]

end Sys2Proof.Machine
end

