-- ==== Sys2Proof/Laws/Platform.lean ====
section
/-! SUPPORT. How a list of events is served, one event at a time. -/

namespace Sys2Proof.Machine

@[simp] theorem offer_nil (s : State) : s.offer [] = s := rfl

@[simp] theorem serve_nil (s : State) : serve [] s = .next s := rfl

/-- The events of a list are accepted in their order (20_memory.md R59). -/
theorem serve_cons {e : Event} {es : List Event} {s t : State} (h : accept e s = .next t) :
    serve (e :: es) s = serve es t := by
  have hp := accept_port h
  have first : step (s.offer (e :: es)) = .next (t.offer es) := by
    have := accept_withPort e s (es ++ s.port)
    rw [h, withPort_next] at this
    simpa [step, State.offer, hp] using this
  simp only [serve, List.length_cons, Host.Core.run]
  rw [show Sys2Proof.core.step (s.offer (e :: es)) = .next (t.offer es) from first]

/-- Two lists of events, one after the other. -/
theorem serve_append {es fs : List Event} {s t : State} (h : serve es s = .next t) :
    serve (es ++ fs) s = serve fs t := by
  induction es generalizing s with
  | nil => cases h; rfl
  | cons e es ih =>
    cases ha : accept e s with
    | next u => rw [serve_cons ha] at h; rw [List.cons_append, serve_cons ha]; exact ih h
    | fault r => cases r
    | refused r =>
      have := accept_withPort e s (es ++ s.port)
      rw [ha] at this
      simp only [serve, List.length_cons, Host.Core.run, Sys2Proof.core, step, State.offer, List.cons_append] at h
      rw [this] at h
      cases h

/-- A write of a register other than CTRL, accepted while the reset input is released. -/
theorem accept_write (m : Master) {r : Reg} (hc : r ≠ .ctrl) (v : Byte) {s : State} (hr : s.resetAsserted = false) :
    accept (.access m (.write (addrOf r) v)) s = .next { s with rdata := none, block := writeReg v s.block r } := by
  have ha : addrOf r ≠ ctrlAddr := fun h => hc (by
    have := regAt_addrOf r; rw [h] at this; exact (Option.some.inj this).symm)
  simp [accept, hr, portAccess, regWrite, ha, State.withBlock]

/-- The issue of an operation, accepted while the reset input is released. -/
theorem accept_issue (m : Master) (v : Byte) {s : State} (hr : s.resetAsserted = false) :
    accept (.access m (.write ctrlAddr v)) s = exec (decodeByte v) { s with rdata := none } := by
  simp [accept, hr, portAccess, regWrite]

/-- A served write of a register other than CTRL. -/
theorem serve_write (m : Master) (r : Reg) (hc : r ≠ .ctrl) (v : Byte) (es : List Event) (s : State)
    (hr : s.resetAsserted = false) :
    serve (.access m (.write (addrOf r) v) :: es) s =
      serve es { s with rdata := none, block := writeReg v s.block r } :=
  serve_cons (accept_write m hc v hr)

/-- A served operation. -/
theorem serve_issue (m : Master) (i : Instr) {j : Instr} (es : List Event) {s t : State} (hr : s.resetAsserted = false)
    (hd : decodeByte (encode i) = j) (ht : exec j { s with rdata := none } = .next t) :
    serve (.access m (issueAccess i) :: es) s = serve es t :=
  serve_cons (by rw [issueAccess, accept_issue m _ hr, hd, ht])

end Sys2Proof.Machine
end

