-- ==== Sys2Proof/Tests/Slice0.lean ====
section
/-! SUPPORT. Tests of the model against the spec's own examples (95_test_vectors.md) and encodings (30_encoding.md R72), and
for every statement with premises a state that meets them. -/

set_option Elab.async false

namespace Sys2Proof.Tests

open Sys2Proof.Machine

/-- The next state of an outcome, if there is one. -/
def nextOf (o : Host.Outcome State Fault Refusal) : Option State :=
  match o with
  | .next t => some t
  | .fault _ => none
  | .refused _ => none

/-- STATUS and the three words after an operation. -/
def statusAndWords (i : Instr) (s : State) : Option (Byte × List Word) :=
  (nextOf (exec i s)).map fun t => (t.block.status.toByte, t.block.word.toList)

/-- STATUS and CRC after an operation. -/
def statusAndCrc (i : Instr) (s : State) : Option (Byte × Byte) :=
  (nextOf (exec i s)).map fun t => (t.block.status.toByte, t.block.crc)

/-- TXB, TXLEN and STATUS after an operation. -/
def frameAfter (i : Instr) (s : State) : Option (List Byte × Nat × Byte) :=
  (nextOf (exec i s)).map fun t => (t.block.txb.toList, t.block.txlen.toNat, t.block.status.toByte)

/-- The reset state with one block. -/
def withBlock (b : Block) : State := { State.reset with block := b }

/-- The reset state with a reply loaded. -/
def reply (bytes : Vector Byte 9) (len : BitVec 4) (n : BitVec 2) : State :=
  withBlock { Block.reset with rxb := bytes, rxlen := len, wcnt := n }

/-- V-DE-01's reply: BE EF 92, one word. -/
def oneWord : State := reply #v[0xBE, 0xEF, 0x92, 0, 0, 0, 0, 0, 0] 3 1

/-- V-DE-02's reply: three words. -/
def threeWords : State := reply #v[0x03, 0x20, 0x2A, 0x4E, 0x20, 0xE3, 0x75, 0x30, 0x08] 9 3

/-- V-DE-12's reply: words 0 and 1 wrong. -/
def twoWrong : State := reply #v[0x03, 0x20, 0x2B, 0x4E, 0x20, 0xE2, 0x75, 0x30, 0x08] 9 3

/-- V-DE-11's reply: word 2 wrong. -/
def lastWrong : State := reply #v[0x03, 0x20, 0x2A, 0x4E, 0x20, 0xE3, 0x75, 0x31, 0x08] 9 3

/-- A state in which one word has been decoded: STATUS = 30, WORD0 = BEEF. -/
def decodedOne : State := withBlock { oneWord.block with
  word := #v[0xBEEF, 0, 0], status := { res := .ok, eidx := 0, dvalid := true, dcnt := 1 } }

/-- A state with one pending event. -/
def pending (s : State) (e : Event) : State := { s with port := [e] }

/-- A state with the reset input asserted. -/
def inReset (es : List Event) : State := { State.reset with resetAsserted := true, port := es }

/-! ## WellFormed refuses ill-formed terms -/

theorem test_wellFormed_refuses_legal_op_as_reserved : (Instr.illegalReservedOp 0x6).wellFormed = false := by decide
theorem test_wellFormed_accepts_first_reserved : (Instr.illegalReservedOp 0x7).wellFormed = true := by decide
theorem test_wellFormed_refuses_zero_z : (Instr.illegalZ 0x0 0x6).wellFormed = false := by decide
theorem test_wellFormed_accepts_z : (Instr.illegalZ 0x1 0x6).wellFormed = true := by decide
theorem test_wellFormed_refuses_read_with_data : PortWord.wellFormed (0x0155 : Sys2Proof.PortWord) = false := by decide
theorem test_wellFormed_refuses_ten_reply_bytes : (Pseudo.loadRx (List.replicate 10 0)).wellFormed = false := by decide
theorem test_wellFormed_refuses_no_reply_bytes : (Pseudo.loadRx []).wellFormed = false := by decide

/-! ## Decoding: words written from 30_encoding.md R72 to R74 -/

theorem test_decode_nop : decode [0b00000000#8] = .ok (.nop, []) := rfl
theorem test_decode_crc_init : decode [0b00000001#8] = .ok (.crcInit, []) := rfl
theorem test_decode_crc_byte : decode [0b00000010#8] = .ok (.crcByte, []) := rfl
theorem test_decode_crc_word : decode [0b00000011#8] = .ok (.crcWord, []) := rfl
theorem test_decode_enc_rd : decode [0b00000100#8] = .ok (.encRd, []) := rfl
theorem test_decode_enc_wr : decode [0b00000101#8] = .ok (.encWr, []) := rfl
theorem test_decode_decode : decode [0b00000110#8] = .ok (.decode, []) := rfl
theorem test_decode_reserved_first : decode [0b00000111#8] = .ok (.illegalReservedOp 0x7, []) := rfl
theorem test_decode_reserved_last : decode [0b00001111#8] = .ok (.illegalReservedOp 0xF, []) := rfl
theorem test_decode_z_first : decode [0b00010000#8] = .ok (.illegalZ 0x1 0x0, []) := rfl
theorem test_decode_z_decode : decode [0b00010110#8] = .ok (.illegalZ 0x1 0x6, []) := rfl
theorem test_decode_z_last : decode [0b11111111#8] = .ok (.illegalZ 0xF 0xF, []) := rfl
theorem test_decode_no_byte : decode [] = .error .noByte := rfl

/-- 30_encoding.md R76: DECODE is 0x4006, reading STATUS is 0x0100, and (95_test_vectors.md P1) 0x43BE writes DIN. -/
theorem test_port_words : [0x4006, 0x0100, 0x43BE].map (fun t => decodePortWord (BitVec.ofNat 15 t)) =
    [.write 0x00 0x06, .read 0x01, .write 0x03 0xBE] := by decide

/-! ## The checksum: 95_test_vectors.md section 2 -/

/-- V-CK-01, 04, 07, 12, 19. -/
theorem test_checksum_vectors :
    [[], [0xBE], [0xBE, 0xEF], [0x31, 0x32, 0x33, 0x34, 0x35, 0x36, 0x37, 0x38, 0x39], [0xEF, 0xBE]].map checksum =
      [0xFF, 0x0C, 0x92, 0xF7, 0xCE] := by decide +kernel

/-- S1: the eight iterations of the first byte, from 0x41. -/
theorem test_crc_step_trace : (List.range 9).map (fun n => crcSteps n 0x41) =
    [0x41, 0x82, 0x35, 0x6A, 0xD4, 0x99, 0x03, 0x06, 0x0C] := by decide +kernel

/-- Section 2.1: the whole byte table. -/
theorem test_byte_table : (List.range 256).map (fun x => crcUpdate 0 (BitVec.ofNat 8 x)) = crcTable := by decide +kernel

/-! ## Operations: at most two vectors each -/

/-- V-CT-02: NOP keeps a CRC_MISMATCH result. -/
theorem test_nop_keeps_status :
    statusAndWords .nop (withBlock { Block.reset with status := { res := .crcMismatch, eidx := 0, dvalid := false, dcnt := 0 } })
      = some (0x01, [0, 0, 0]) := by decide +kernel

/-- V-OP-01. -/
theorem test_crc_init : statusAndCrc .crcInit (withBlock { Block.reset with crc := 0x5A }) = some (0x00, 0xFF) := by
  decide +kernel

/-- V-OP-13: CRC_INIT keeps DVALID, DCNT and WORD. -/
theorem test_crc_init_keeps_words : statusAndWords .crcInit decodedOne = some (0x30, [0xBEEF, 0, 0]) := by
  decide +kernel

/-- V-OP-04. -/
theorem test_crc_byte : statusAndCrc .crcByte (withBlock { Block.reset with crc := 0x0C, din := 0xEF }) = some (0x00, 0x92) := by
  decide +kernel

/-- V-OP-08: the old CRC is ignored. -/
theorem test_crc_word : statusAndCrc .crcWord (withBlock { Block.reset with parHi := 0xBE, parLo := 0xEF, crc := 0x33 })
    = some (0x00, 0x92) := by decide +kernel

/-- V-EN-08: a longer frame is wholly replaced. -/
theorem test_enc_rd_clears : frameAfter .encRd (withBlock { Block.reset with
    opcHi := 0x3F, opcLo := 0x86, txb := #v[0x36, 0x2F, 0x01, 0x90, 0x4C], txlen := 5 })
    = some ([0x3F, 0x86, 0, 0, 0], 2, 0x00) := by decide +kernel

/-- V-EN-03. -/
theorem test_enc_wr : frameAfter .encWr (withBlock { Block.reset with
    opcHi := 0x36, opcLo := 0x2F, parHi := 0x01, parLo := 0x90 })
    = some ([0x36, 0x2F, 0x01, 0x90, 0x4C], 5, 0x00) := by decide +kernel

/-- V-EN-07: ENC_WR leaves CRC alone, and its checksum covers PAR only. -/
theorem test_enc_wr_leaves_crc : statusAndCrc .encWr (withBlock { Block.reset with
    opcHi := 0xBE, opcLo := 0xEF, parHi := 0xBE, parLo := 0xEF, crc := 0x55 }) = some (0x00, 0x55) := by decide +kernel

/-- V-DE-02. -/
theorem test_decode_three_words : statusAndWords .decode threeWords = some (0x70, [0x0320, 0x4E20, 0x7530]) := by
  decide +kernel

/-- V-DE-12: the lowest failing index is reported. -/
theorem test_decode_lowest_index : statusAndWords .decode twoWrong = some (0x01, [0, 0, 0]) := by decide +kernel

/-- V-DE-11: the index of word 2. -/
theorem test_decode_last_index : statusAndWords .decode lastWrong = some (0x09, [0, 0, 0]) := by decide +kernel

/-- V-DE-17: the length error wins over the checksum. -/
theorem test_decode_length_first : statusAndWords .decode (reply #v[0xBE, 0xEF, 0x93, 0, 0, 0, 0, 0, 0] 2 1)
    = some (0x02, [0, 0, 0]) := by decide +kernel

/-- V-CT-03. -/
theorem test_illegal_reserved : statusAndWords (decodeByte 0x07) decodedOne = some (0x33, [0xBEEF, 0, 0]) := by
  decide +kernel

/-- V-CT-08: Z is not 0 with the OP of CRC_INIT, and CRC is not reset. -/
theorem test_illegal_z : statusAndCrc (decodeByte 0x81) (withBlock { Block.reset with crc := 0x12 }) = some (0x03, 0x12) := by
  decide +kernel

/-! ## The port: 95_test_vectors.md section 2.7 -/

/-- What a read of `a` gives after a write of `v` to `a`, from reset. -/
def writeRead (a : Addr) (v : Byte) : Byte := regRead (regWriteData a v Block.reset) a

/-- V-PT-01 to V-PT-08, V-PT-10. -/
theorem test_port_vectors :
    [writeRead 0x08 0xFF, writeRead 0x09 0xFF, writeRead 0x01 0xFF, writeRead 0x0A 0x05, writeRead 0x10 0x55,
      writeRead 0x28 0x55, writeRead 0x0B 0x55, writeRead 0x3F 0x55, writeRead 0x20 0xA5] =
    [0x03, 0x0F, 0x00, 0x00, 0x00, 0x00, 0x00, 0x00, 0xA5] := by decide +kernel

/-- V-PT-12. -/
theorem test_port_reset_values : [0x01, 0x02, 0x03, 0x08, 0x09, 0x0A].map (fun a => regRead Block.reset (BitVec.ofNat 6 a)) =
    [0x00, 0xFF, 0x00, 0x00, 0x00, 0x00] := by decide +kernel

/-- A pending write of CTRL runs the operation, and a read returns its value. -/
theorem test_step_runs_and_reads :
    (nextOf (step (pending (withBlock { Block.reset with din := 0xBE }) (issue .host 0x02)))).map (·.block.crc) = some 0x0C ∧
    (nextOf (step (pending State.reset (.access .host (.read 0x02))))).map (·.rdata) = some (some 0xFF) := by
  decide +kernel

/-- The word that `withFetchWord` places runs as the first operation after reset. -/
theorem test_fetch_word_runs_first :
    (nextOf (step (State.reset.withFetchWord 8 0x04))).map (·.block.txlen.toNat) = some 2 := by decide +kernel

/-- 95_test_vectors.md P1 and 30_encoding.md R77, R78: lines of text and the words they stand for. -/
theorem test_assembler_lines :
    assemble ["crc.init            ; start checksum", "wr DIN, 0xBE", "rd STATUS", "ctrl 0x16", "ld.opc 0xE4B8", "; only a comment"]
      = some [0x4001, 0x43BE, 0x0100, 0x4016, 0x44E4, 0x45B8] := by decide +kernel

/-- Lines outside the notation have no words. -/
theorem test_assembler_refuses :
    [assemble ["wr DIN, 256"], assemble ["rd 64"], assemble ["wr NONE, 1"], assemble ["load.rx"], assemble ["crc.init 1"]]
      = [none, none, none, none, none] := by decide +kernel

/-- 95_test_vectors.md P3: the word 0x8000 is not ready and 0x0001 is. -/
theorem test_data_ready : [0x8000, 0x0001].map (fun w => dataReady w) = [false, true] := by decide

/-- 92_eei_decisions.md D43: the two forms of the bus address. -/
theorem test_bus_address : [BusAddrForm.address .sevenBit, BusAddrForm.address .eightBit] = [0x62, 0xC4] := by decide

/-- 00_scope.md R4: the derived capacities. -/
theorem test_capacities : Config.rxCap = Config.maxWords * Config.groupBytes ∧
    Config.txCap = Config.wordBytes + Config.maxParams * Config.groupBytes := by decide

/-! ## Witnesses: for every statement with premises, a state that meets them -/

theorem test_witness_ResetInput :
    (pending oneWord (.resetInput true)).port = .resetInput true :: [] ∧
    (inReset [issue .host 0x04]).resetAsserted = true ∧ (inReset [issue .host 0x04]).block = Block.reset ∧
    (inReset [.resetInput false]).port = .resetInput false :: [] := by decide +kernel

/-- Both ends of every unmapped range, and a pending read. -/
theorem test_witness_RegRead :
    [0x0B, 0x0F, 0x15, 0x17, 0x21, 0x27, 0x2E, 0x3F].map (fun a => regAt (BitVec.ofNat 6 a)) = List.replicate 8 none ∧
    (pending oneWord (.access .host (.read 0x3F))).port = .access .host (.read 0x3F) :: [] := by decide +kernel

/-- Each clause has an address, at the ends of its range, and the writable ones are in none of the ranges without effect. -/
theorem test_witness_RegWrite :
    (pending oneWord (.access .busController (.write 0x20 0x55))).resetAsserted = false ∧
    (pending oneWord (.access .busController (.write 0x20 0x55))).port = .access .busController (.write 0x20 0x55) :: [] ∧
    (0x18 : Addr) = BitVec.ofNat 6 (0x18 + (0 : Fin 9).val) ∧ (0x20 : Addr) = BitVec.ofNat 6 (0x18 + (8 : Fin 9).val) ∧
    (∀ a ∈ [0x00, 0x02, 0x03, 0x04, 0x05, 0x06, 0x07, 0x08, 0x09, 0x18, 0x20],
      ¬(a = 0x01 ∨ (0x0A ≤ a ∧ a ≤ 0x17) ∨ 0x21 ≤ a)) ∧
    (∀ a ∈ [0x01, 0x0A, 0x17, 0x21, 0x3F], a = 0x01 ∨ (0x0A ≤ a ∧ a ≤ 0x17) ∨ 0x21 ≤ a) := by decide +kernel

/-- The ends of the ranges of read-write and of ignored addresses, and two addresses that differ. -/
theorem test_witness_ReadAfterWrite :
    (∀ a ∈ [0x02, 0x07, 0x18, 0x20], (0x02 ≤ a ∧ a ≤ 0x07) ∨ (0x18 ≤ a ∧ a ≤ 0x20)) ∧
    (∀ a ∈ [0x00, 0x01, 0x0A, 0x17, 0x21, 0x3F], a ≤ 0x01 ∨ (0x0A ≤ a ∧ a ≤ 0x17) ∨ 0x21 ≤ a) ∧
    (0x08 : Addr) ≠ 0x09 := by decide +kernel

theorem test_witness_Masters :
    nextOf (Sys2Proof.core.run 1 (pending State.reset (issue .busController 0x01))) = some State.reset := by
  decide +kernel

theorem test_witness_RoundTrip :
    Instr.decode.wellFormed = true ∧ (Instr.illegalReservedOp 0xF).wellFormed = true ∧
    (Instr.illegalZ 0xF 0x0).wellFormed = true ∧ PortWord.wellFormed (0x3F00 : Sys2Proof.PortWord) = true ∧
    PortWord.wellFormed (0x7FFF : Sys2Proof.PortWord) = true := by decide +kernel

theorem test_witness_StepRunsDecoded :
    (pending oneWord (.access .host (.write 0x00 0x06))).resetAsserted = false ∧
    (pending oneWord (.access .host (.write 0x00 0x06))).port = .access .host (.write 0x00 0x06) :: [] ∧
    decode [0x06#8] = .ok (.decode, []) ∧ Instr.decode.wellFormed = true ∧ encode .decode = 0x06 ∧
    State.reset.port = [] := ⟨rfl, rfl, rfl, rfl, rfl, rfl⟩

theorem test_witness_FetchWord : decodeTableWord 8 0x06 = some .decode := rfl

theorem test_witness_ChecksumAffine : [0x12, 0x34].length = [0xFF, 0x00].length := rfl

theorem test_witness_ByteSerial : oneWord.resetAsserted = false := rfl

/-- A group that passes (V-CK-05), and an error pattern of each kind: one bit, two bits, seven bits, a whole byte. -/
theorem test_witness_ErrorDetection :
    groupPasses 0x000081 = true ∧ (0x800000 : BitVec 24) ≠ 0 ∧ errorWeight 0x800000 = 1 ∧ errorWeight 0x800001 = 2 ∧
    errorWeight 0x7F0000 % 2 = 1 ∧ isBurst 0xFF0000 := by
  refine ⟨by decide +kernel, by decide, by decide +kernel, by decide +kernel, by decide +kernel, 16, ?_⟩
  intro i hi
  have small : i < 24 := by
    by_contra h
    rw [BitVec.getLsbD_of_ge _ _ (by omega)] at hi
    cases hi
  revert hi
  revert i
  decide +kernel

/-- No word asked for, and three. -/
theorem test_witness_DecodeSuccess :
    ∀ s ∈ [State.reset, oneWord, threeWords], s.block.rxlen.toNat = 3 * s.block.wcnt.toNat ∧
      ∀ i : Fin 3, i.val < s.block.wcnt.toNat →
        s.block.rxb[3 * i.val + 2] = checksum [s.block.rxb[3 * i.val], s.block.rxb[3 * i.val + 1]] := by decide +kernel

/-- A short reply, an RXLEN of 10 and of 15. -/
theorem test_witness_DecodeLength :
    (∀ p ∈ [(2, 1), (10, 3), (15, 3)], (reply #v[0, 0, 0x81, 0, 0, 0x81, 0, 0, 0x81] p.1 p.2).block.rxlen.toNat ≠
      3 * (reply #v[0, 0, 0x81, 0, 0, 0x81, 0, 0, 0x81] p.1 p.2).block.wcnt.toNat) ∧
    9 < (reply #v[0, 0, 0, 0, 0, 0, 0, 0, 0] 10 3).block.rxlen.toNat := by decide +kernel

/-- Group 0 and group 2 as the first to fail. -/
theorem test_witness_DecodeMismatch :
    ∀ p ∈ [(twoWrong, (0 : Fin 3)), (lastWrong, 2)], p.1.block.rxlen.toNat = 3 * p.1.block.wcnt.toNat ∧
      p.2.val < p.1.block.wcnt.toNat ∧
      p.1.block.rxb[3 * p.2.val + 2] ≠ checksum [p.1.block.rxb[3 * p.2.val], p.1.block.rxb[3 * p.2.val + 1]] ∧
      ∀ j : Fin 3, j < p.2 → p.1.block.rxb[3 * j.val + 2] =
        checksum [p.1.block.rxb[3 * j.val], p.1.block.rxb[3 * j.val + 1]] := by decide +kernel

theorem test_witness_DecodeFailure :
    (nextOf (exec .decode twoWrong)).map (·.block.status.res) = some .crcMismatch ∧
    (nextOf (exec .decode (reply #v[0, 0, 0, 0, 0, 0, 0, 0, 0] 15 0))).map (·.block.status.res) = some .lengthError := by
  decide +kernel

/-- Two replies that differ in RXB3 alone, of which DECODE with one word reads neither. -/
theorem test_witness_DecodeReadsOnly :
    (∀ k : Fin 9, k.val < 3 * oneWord.block.wcnt.toNat →
      oneWord.block.rxb[k] = (reply #v[0xBE, 0xEF, 0x92, 0x11, 0, 0, 0, 0, 0] 3 1).block.rxb[k]) ∧
    oneWord.block.rxb ≠ (reply #v[0xBE, 0xEF, 0x92, 0x11, 0, 0, 0, 0, 0] 3 1).block.rxb ∧
    (nextOf (exec .decode oneWord)).isSome = true := by decide +kernel

/-- The ends of the illegal bytes, and both ends of each row's well-formed fields. -/
theorem test_witness_IllegalByte : 7 ≤ (0x07 : Byte).toNat ∧ 7 ≤ (0xFF : Byte).toNat ∧
    (Instr.illegalReservedOp 0x7).wellFormed = true ∧ (Instr.illegalReservedOp 0xF).wellFormed = true ∧
    (Instr.illegalZ 0x1 0x0).wellFormed = true ∧ (Instr.illegalZ 0xF 0xF).wellFormed = true := by decide

/-- Terms just outside their row. -/
theorem test_witness_IllegalTermsOutside : (Instr.illegalReservedOp 0x6).wellFormed = false ∧
    (Instr.illegalReservedOp 0x0).wellFormed = false ∧ (Instr.illegalZ 0x0 0xF).wellFormed = false := by decide

/-- Every operation of each frame statement answers a next state, and an address outside its destinations exists. -/
theorem test_witness_Frames :
    (∀ i ∈ [Instr.nop, .crcInit, .crcByte, .crcWord, .encRd, .encWr, .decode, .illegalReservedOp 0x7, .illegalZ 0x1 0x6],
      (nextOf (exec i threeWords)).isSome = true) ∧
    (Instr.illegalReservedOp 0x7).isIllegal = true ∧ (Instr.illegalZ 0x1 0x6).isIllegal = true ∧
    (0x20 : Addr) ≠ 0x01 ∧ (0x20 : Addr) ≠ 0x02 ∧ (0x20 : Addr) ≠ 0x0A ∧
    ¬(0x10 ≤ (0x20 : Addr).toNat ∧ (0x20 : Addr).toNat ≤ 0x14) ∧
    ¬(0x28 ≤ (0x20 : Addr).toNat ∧ (0x20 : Addr).toNat ≤ 0x2D) := by decide +kernel

/-- The ends of the byte ranges, and a state for each way DECODE ends. -/
theorem test_witness_ResultPriority :
    7 ≤ (0x07 : Byte).toNat ∧ 1 ≤ (0x01 : Byte).toNat ∧ (0x05 : Byte).toNat ≤ 5 ∧
    (reply #v[0, 0, 0, 0, 0, 0, 0, 0, 0] 2 1).block.rxlen.toNat ≠ 3 ∧
    twoWrong.block.groupOk 0 = false ∧ lastWrong.block.groupOk 2 = false ∧
    (∀ j : Fin 3, j < 2 → lastWrong.block.groupOk j = true) ∧ (∀ i : Fin 3, threeWords.block.groupOk i = true) := by
  decide +kernel

theorem test_witness_DecodedData :
    (nextOf (step (pending decodedOne (issue .host 0x05)))).isSome = true ∧
    (∀ m ∈ [Master.host, .busController],
      (pending decodedOne (issue .host 0x05)).port.head? ≠ some (.access m (.write 0x00 0x06))) ∧
    (∀ l : Bool, (pending decodedOne (issue .host 0x05)).port.head? ≠ some (.resetInput l)) := by decide +kernel

/-- A state that is not the reset state, with a decoded word and an operation pending, satisfies the invariant and steps. -/
theorem test_witness_Invariant :
    (pending decodedOne (issue .host 0x06)).Inv ∧ (nextOf (step (pending decodedOne (issue .host 0x06)))).isSome = true := by
  refine ⟨⟨⟨⟨?_, ?_⟩, ⟨?_, ?_, ?_⟩, ⟨?_, ?_⟩⟩, ?_⟩, ?_⟩ <;> decide +kernel

theorem test_witness_EveryRun :
    (nextOf (Sys2Proof.core.run 2 (State.reset.offer [issue .host 0x06, issue .host 0x04]))).isSome = true := by decide +kernel

/-- A reply that decodes, and one whose group 1 fails: both have a length of three times the count, at most nine. -/
theorem test_witness_Codec :
    (∀ s ∈ [State.reset, threeWords, lastWrong], s.block.replyLength ≤ 9 ∧ s.block.replyLength = 3 * s.block.wordCount) ∧
    (∃ ws, decodeWords threeWords.block.raw 3 = .ok ws) ∧
    decodeWords lastWrong.block.raw 3 = .error (.checksumError 2) := by
  exact ⟨by decide +kernel, ⟨[0x0320, 0x4E20, 0x7530], by decide +kernel⟩, by decide +kernel⟩

/-- PAR = BEEF encoded, and the state that has its group as a reply. -/
theorem test_witness_EncodedParameter :
    (nextOf (exec .encWr (withBlock { Block.reset with parHi := 0xBE, parLo := 0xEF }))).map
        (fun t => (t.block.txb[2], t.block.txb[3], t.block.txb[4])) =
      some (oneWord.block.rxb[0], oneWord.block.rxb[1], oneWord.block.rxb[2]) ∧
    oneWord.block.rxlen = 3 ∧ oneWord.block.wcnt = 1 := by decide +kernel

theorem test_witness_ReplyDelivery : (List.replicate 9 (0x55 : Byte)).length ≤ 9 ∧ State.reset.resetAsserted = false := by
  decide +kernel

theorem test_witness_ReceivedReply : ([0x0320, 0x4E20, 0x7530] : List Word).length ≤ 3 ∧ decodedOne.resetAsserted = false := by
  decide +kernel

theorem test_witness_Request : decodedOne.resetAsserted = false := rfl

theorem test_witness_Pseudo : 1 ≤ [0x55#8].length ∧ (List.replicate 9 (0x55 : Byte)).length ≤ 9 := by decide +kernel

/-- Two blocks: the first has a block with a step, the second is another. -/
theorem test_witness_Blocks : (1 : Nat) ≠ 0 ∧ [oneWord, threeWords][0]? = some oneWord ∧
    nextOf (step oneWord) = some oneWord := by decide +kernel

end Sys2Proof.Tests
end

section
/-! PROOFS. The invariant of Safety.lean (10_state.md R26, R37, R38; 41_frame_codec.md R110; 70_reset_and_hazards.md R180):
it holds at reset, every step keeps it, and so it holds along every run. -/

namespace Sys2Proof.Machine

/-! ### What a data write leaves -/

@[simp] theorem writeReg_status (v : Byte) (b : Block) (r : Reg) : (writeReg v b r).status = b.status := by
  cases r <;> rfl
@[simp] theorem writeReg_word (v : Byte) (b : Block) (r : Reg) : (writeReg v b r).word = b.word := by
  cases r <;> rfl
@[simp] theorem writeReg_txlen (v : Byte) (b : Block) (r : Reg) : (writeReg v b r).txlen = b.txlen := by
  cases r <;> rfl
@[simp] theorem writeReg_txb (v : Byte) (b : Block) (r : Reg) : (writeReg v b r).txb = b.txb := by
  cases r <;> rfl

/-- A data write either writes the register at its address or, where there is none, changes nothing (20_memory.md R55). -/
theorem regWriteData_cases (a : Addr) (v : Byte) (b : Block) :
    (∃ r, regAt a = some r ∧ regWriteData a v b = writeReg v b r) ∨
    (regAt a = none ∧ regWriteData a v b = b) := by
  cases h : regAt a with
  | some r => exact .inl ⟨r, rfl, by simp [regWriteData, h]⟩
  | none => exact .inr ⟨rfl, by simp [regWriteData, h]⟩

/-! ### The parts of the block's invariant -/

/-- The invariant looks at STATUS, WORD, TXLEN and TXB alone. -/
theorem Block.Inv.of_same {b c : Block} (h : b.Inv) (hs : c.status = b.status) (hw : c.word = b.word)
    (hl : c.txlen = b.txlen) (ht : c.txb = b.txb) : c.Inv := by
  cases b; cases c
  cases hs; cases hw; cases hl; cases ht
  obtain ⟨⟨noneDecoded, beyond⟩, ⟨lengths, zeros, sum⟩, index⟩ := h
  exact ⟨⟨noneDecoded, beyond⟩, ⟨lengths, zeros, sum⟩, index⟩

/-- Ending with a result keeps the rest of the invariant, when the info it reports is an index (60_exceptions.md R150). -/
theorem raise_inv {r : Result} {n : BitVec 2} {b : Block} (words : b.WordsConsistent) (frame : b.FrameConsistent)
    (isIndex : n.toNat ≤ 2) (onlyMismatch : r ≠ .crcMismatch → n = 0) : (raise r n b).Inv where
  words := ⟨words.noneDecoded, words.beyondCount⟩
  frame := ⟨frame.lengths, frame.beyondLength, frame.paramSum⟩
  index := ⟨isIndex, onlyMismatch⟩

/-- A result reported with info 0 keeps the rest of the invariant. -/
theorem raise_zero_inv (r : Result) {b : Block} (words : b.WordsConsistent) (frame : b.FrameConsistent) :
    (raise r 0 b).Inv := raise_inv words frame (by decide) fun _ => rfl

/-- A new CRC and a result (40_checksum.md section 2). -/
theorem raise_newCrc_inv {b : Block} (h : b.Inv) (c : Byte) : (raise .ok 0 { b with crc := c }).Inv :=
  have same : Block.Inv { b with crc := c } := h.of_same rfl rfl rfl rfl
  raise_zero_inv .ok same.words same.frame

/-- The frame of ENC_RD: two bytes, the rest 0 (41_frame_codec.md R112). -/
theorem readFrame_consistent (x y : Byte) (b : Block) : (setFrame #v[x, y, 0, 0, 0] 2 b).FrameConsistent where
  lengths := .inr (.inl rfl)
  beyondLength i hi := by
    match i with
    | 0 | 1 => exact absurd hi (by simp)
    | 2 | 3 | 4 => rfl
  paramSum h := absurd h (by simp)

/-- The frame of ENC_WR: five bytes, the last one the checksum of the two before it (41_frame_codec.md R110, R113). -/
theorem writeFrame_consistent (x y hi lo : Byte) (b : Block) :
    (setFrame #v[x, y, hi, lo, checksum [hi, lo]] 5 b).FrameConsistent where
  lengths := .inr (.inr rfl)
  beyondLength i hi := absurd hi (by simp)
  paramSum _ := rfl

theorem setFrame_words {b : Block} (h : b.WordsConsistent) (bytes : Vector Byte 5) (len : BitVec 3) :
    (setFrame bytes len b).WordsConsistent := ⟨h.noneDecoded, h.beyondCount⟩

/-- What DECODE writes besides the result is no part of the outgoing frame (41_frame_codec.md R115, R118). -/
theorem decoded_frame {b : Block} (h : b.FrameConsistent) (valid : Bool) (n : BitVec 2) (ws : Vector Word 3) :
    (setDecoded valid n (setWords ws b)).FrameConsistent := ⟨h.lengths, h.beyondLength, h.paramSum⟩

/-- A failed DECODE leaves no word and says so (41_frame_codec.md R118). -/
theorem decodeFail_inv {b : Block} (frame : b.FrameConsistent) {r : Result} {n : BitVec 2} (isIndex : n.toNat ≤ 2)
    (onlyMismatch : r ≠ .crcMismatch → n = 0) : (decodeFail r n b).Inv := by
  refine raise_inv ⟨fun _ => ⟨rfl, fun i => ?_⟩, nofun⟩ (decoded_frame frame _ _ _) isIndex onlyMismatch
  simp

/-- A successful DECODE leaves as many words as it says (41_frame_codec.md R115). -/
theorem decodeOk_inv {b : Block} (frame : b.FrameConsistent) : (decodeOk b).Inv := by
  refine raise_zero_inv .ok ⟨nofun, fun _ i hi => ?_⟩ (decoded_frame frame _ _ _)
  have beyond : ¬i.val < b.wordCount := Nat.not_lt.mpr hi
  simp [beyond]

theorem decodeReply_inv {b : Block} (frame : b.FrameConsistent) : (decodeReply b).Inv := by
  obtain ⟨-, e⟩ | ⟨i, -, -, -, -, e⟩ | ⟨-, -, e⟩ := decodeReply_cases b <;> rw [e]
  · exact decodeFail_inv frame (by decide) fun _ => rfl
  · have isIndex : (BitVec.ofNat 2 i.val).toNat ≤ 2 := by have := i.isLt; simp; omega
    exact decodeFail_inv frame isIndex fun h => absurd rfl h
  · exact decodeOk_inv frame

/-! ### Every operation, access and step keeps the invariant -/

theorem regWriteData_inv {b : Block} (h : b.Inv) (a : Addr) (v : Byte) : (regWriteData a v b).Inv := by
  obtain ⟨r, -, e⟩ | ⟨-, e⟩ := regWriteData_cases a v b <;> rw [e]
  · exact h.of_same (by simp) (by simp) (by simp) (by simp)
  · exact h

theorem exec_keeps_block_inv {i : Instr} {s t : State} (he : exec i s = .next t) (h : s.block.Inv) : t.block.Inv := by
  obtain ⟨-, rfl⟩ | ⟨c, rfl⟩ | ⟨-, rfl⟩ | ⟨-, rfl⟩ | ⟨-, rfl⟩ | rfl := exec_cases he
  · exact h
  · exact raise_newCrc_inv h c
  · exact raise_zero_inv .ok (setFrame_words h.words _ _) (readFrame_consistent _ _ _)
  · exact raise_zero_inv .ok (setFrame_words h.words _ _) (writeFrame_consistent _ _ _ _ _)
  · exact decodeReply_inv h.frame
  · exact raise_zero_inv .illegalOp h.words h.frame

/-- No operation changes the level of the reset input. -/
theorem exec_resetAsserted {i : Instr} {s t : State} (he : exec i s = .next t) : t.resetAsserted = s.resetAsserted := by
  obtain ⟨b, e⟩ := exec_eq_withBlock i s
  cases e.symm.trans he
  rfl

/-- The reset values satisfy the block's invariant (70_reset_and_hazards.md R181). -/
theorem blockReset_inv : Block.reset.Inv where
  words := ⟨fun _ => ⟨rfl, by decide⟩, nofun⟩
  frame := ⟨.inl rfl, fun i _ => by simp [Block.reset], nofun⟩
  index := ⟨by decide, fun _ => rfl⟩

theorem setResetInput_inv {s : State} (h : s.Inv) (l : Bool) : (setResetInput l s).Inv := by
  unfold setResetInput
  split
  · exact ⟨blockReset_inv, fun _ => rfl⟩
  · exact ⟨h.block, h.held⟩

theorem accessInReset_inv {s : State} (h : s.Inv) (x : Access) : (accessInReset x s).Inv := by
  cases x <;> exact ⟨h.block, h.held⟩

theorem accept_keeps_inv {e : Event} {s t : State} (ha : accept e s = .next t) (h : s.Inv) : t.Inv := by
  obtain ⟨l, -, rfl⟩ | ⟨m, x, -, -, rfl⟩ | ⟨m, a, -, -, rfl⟩ | ⟨m, v, -, released, he⟩ | ⟨m, a, v, -, -, released, rfl⟩ :=
    accept_cases ha
  · exact setResetInput_inv h l
  · exact accessInReset_inv h x
  · exact ⟨h.block, h.held⟩
  · have still : t.resetAsserted = false := (exec_resetAsserted he).trans released
    exact ⟨exec_keeps_block_inv he h.block, by simp [still]⟩
  · exact ⟨regWriteData_inv h.block a v, by simp [released]⟩

theorem step_keeps_inv {s t : State} (hs : step s = .next t) (h : s.Inv) : t.Inv := by
  cases hp : s.port with
  | nil => rw [step_idle s hp] at hs; cases hs; exact h
  | cons e rest => rw [step_cons s hp] at hs; exact accept_keeps_inv hs ⟨h.block, h.held⟩

/-- Settles O42: each event the port accepts keeps the invariant, since a write touches none of the registers it speaks of and
every operation writes those together. -/
theorem stepKeepsInvariant : Obligations.StepKeepsInvariant :=
  fun _ _ h hs => step_keeps_inv hs h

/-- Settles O41. -/
theorem resetSatisfiesInvariant : Obligations.ResetSatisfiesInvariant :=
  ⟨blockReset_inv, fun _ => rfl⟩

/-! ### Along every run -/

/-- A run that ends in a next state began with a step to one. -/
theorem run_succ_eq_next {k : Nat} {s t : State} (h : Sys2Proof.core.run (k + 1) s = .next t) :
    ∃ u, step s = .next u ∧ Sys2Proof.core.run k u = .next t := by
  simp only [Host.Core.run] at h
  split at h
  · next u hu => exact ⟨u, hu, h⟩
  · cases h
  · cases h

/-- What every step keeps, every run keeps. -/
theorem run_keeps {P : State → Prop} (keeps : ∀ {s t}, step s = .next t → P s → P t) {k : Nat} {s t : State}
    (hr : Sys2Proof.core.run k s = .next t) (h : P s) : P t := by
  induction k generalizing s with
  | zero => cases hr; exact h
  | succ k ih =>
    obtain ⟨u, hu, rest⟩ := run_succ_eq_next hr
    exact ih rest (keeps hu h)

/-- The invariant does not look at the pending events. -/
theorem State.Inv.offer {s : State} (h : s.Inv) (es : List Event) : (s.offer es).Inv := ⟨h.block, h.held⟩

/-- Settles O43: the invariant holds at reset and every step keeps it. -/
theorem everyRunFromResetIsConsistent : Obligations.EveryRunFromResetIsConsistent := by
  intro es k t hr
  obtain ⟨words, frame, -⟩ := (run_keeps step_keeps_inv hr (resetSatisfiesInvariant.offer es)).block
  exact ⟨words.noneDecoded, words.beyondCount, frame.lengths, frame.beyondLength⟩

end Sys2Proof.Machine
end

section
/-! PROOFS. STATUS: its byte, field by field (10_state.md R26), and that no operation reads it (R39). -/

namespace Sys2Proof.Machine

/-- A concatenation as a number: the first part stands above the `n` bits of the second. -/
theorem toNat_append_eq_add {m n : Nat} (x : BitVec m) (y : BitVec n) : (x ++ y).toNat = x.toNat * 2 ^ n + y.toNat := by
  rw [BitVec.toNat_append, ← Nat.shiftLeft_add_eq_or_of_lt y.isLt, Nat.shiftLeft_eq]

/-- Settles O5: the byte is a concatenation, each part standing above the widths of the parts after it. -/
theorem statusByteLayout : Obligations.StatusByteLayout := by
  intro b
  have sum : b.status.toByte.toNat = (((0 * 2 ^ 2 + b.status.dcnt.toNat) * 2 ^ 1 + b.status.dvalid.toNat) * 2 ^ 2 +
      b.status.eidx.toNat) * 2 ^ 2 + b.status.res.code.toNat := by
    simp only [Status.toByte, toNat_append_eq_add, BitVec.toNat_ofBool]
    rfl
  rw [show regRead b 0x01 = b.status.toByte from rfl, sum]
  cases b.status.res <;> simp only [Result.code, BitVec.reduceToNat] <;> omega

/-- DECODE overwrites every field of STATUS and looks at none (41_frame_codec.md R114 to R118). -/
theorem decodeReply_congr_status (b : Block) (f : Status) : decodeReply { b with status := f } = decodeReply b := by
  have same : ({ b with status := f } : Block).firstBadGroup = b.firstBadGroup := rfl
  rw [decodeReply_eq, decodeReply_eq, same]
  rfl

/-- Settles O39: NOP keeps both states, DECODE overwrites STATUS, and every other operation ends with a result of its own. -/
theorem noOperationReadsStatus : Obligations.NoOperationReadsStatus := by
  intro i s f
  cases i with
  | nop => exact ⟨_, _, rfl, rfl, rfl, fun h => absurd rfl h, nofun⟩
  | decode =>
    have same : exec .decode { s with block := { s.block with status := f } } = .next (s.withBlock (decodeReply s.block)) :=
      congrArg (fun b => Host.Outcome.next (s.withBlock b)) (decodeReply_congr_status s.block f)
    exact ⟨_, _, rfl, same, rfl, fun _ => ⟨rfl, rfl⟩, fun _ => rfl⟩
  | _ => exact ⟨_, _, rfl, rfl, rfl, fun _ => ⟨rfl, rfl⟩, nofun⟩

end Sys2Proof.Machine
end

section
/-! PROOFS. What a read gives after the data part of a write (10_state.md R23 to R35, 20_memory.md R54, R55). -/

namespace Sys2Proof.Machine

/-- The registers that keep all eight bits of what is written (10_state.md R24, R25, R27, R28, R33). -/
def keepsByte : Reg → Bool
  | .crc | .din | .opcHi | .opcLo | .parHi | .parLo | .rxb _ => true
  | _ => false

/-- The registers whose write stores nothing (10_state.md R23, R26, R31, R32, R34). -/
def storesNothing : Reg → Bool
  | .ctrl | .status | .txlen | .txb _ | .wordHi _ | .wordLo _ => true
  | _ => false

theorem readReg_writeReg_same {r : Reg} (h : keepsByte r = true) (v : Byte) (b : Block) :
    readReg (writeReg v b r) r = v := by
  cases r with
  | rxb i => simp [readReg, writeReg]
  | crc | din | opcHi | opcLo | parHi | parLo => rfl
  | _ => cases h

theorem writeReg_eq_self {r : Reg} (h : storesNothing r = true) (v : Byte) (b : Block) : writeReg v b r = b := by
  cases r with
  | ctrl | status | txlen | txb | wordHi | wordLo => rfl
  | _ => cases h

/-- A write of one register leaves what every other reads as. -/
theorem readReg_writeReg_of_ne {r r' : Reg} (h : r ≠ r') (v : Byte) (b : Block) :
    readReg (writeReg v b r) r' = readReg b r' := by
  cases r with
  | rxb i =>
    cases r' with
    | rxb j =>
      have apart : i.val ≠ j.val := fun e => h (congrArg Reg.rxb (Fin.ext e))
      simp [readReg, writeReg, Vector.getElem_set_ne, apart]
    | _ => rfl
  | ctrl | status | txlen | txb | wordHi | wordLo => rfl
  | _ => cases r' <;> simp [readReg, writeReg] at h ⊢

/-- The addresses of the map's read-write bytes. -/
theorem regAt_keepsByte {a : Addr} (h : (0x02 ≤ a.toNat ∧ a.toNat ≤ 0x07) ∨ (0x18 ≤ a.toNat ∧ a.toNat ≤ 0x20)) :
    ∃ r, regAt a = some r ∧ keepsByte r = true := by
  have any : (regAt a).any keepsByte = true := by revert a; decide
  simpa [Option.any_eq_true] using any

/-- The addresses of CTRL and of the read-only registers, and the unmapped ones. -/
theorem regAt_storesNothing {a : Addr} (h : a.toNat ≤ 0x01 ∨ (0x0A ≤ a.toNat ∧ a.toNat ≤ 0x17) ∨ 0x21 ≤ a.toNat)
    {r : Reg} (hr : regAt a = some r) : storesNothing r = true := by
  have all : (regAt a).all storesNothing = true := by clear hr; revert a; decide
  simpa [hr] using all

/-- A write at one address leaves what every other address reads as. -/
theorem regRead_regWriteData_of_ne {a a' : Addr} (h : a ≠ a') (v : Byte) (b : Block) :
    regRead (regWriteData a v b) a' = regRead b a' := by
  obtain ⟨r, hr, e⟩ | ⟨-, e⟩ := regWriteData_cases a v b <;> rw [e]
  cases hr' : regAt a' with
  | none => simp [regRead, hr']
  | some r' =>
    have apart : r ≠ r' := fun same => h (by rw [regAt_eq_some hr, regAt_eq_some hr', same])
    simp [regRead, hr', readReg_writeReg_of_ne apart]

/-- The low `k` bits of a byte, read back with zeros above them. -/
theorem zeroExtend_lowBits (v : Byte) (k : Nat) :
    (v.extractLsb' 0 k).zeroExtend 8 = v &&& BitVec.ofNat 8 (2 ^ k - 1) := by
  apply BitVec.eq_of_getLsbD_eq
  intro i hi
  have mask : (BitVec.ofNat 8 (2 ^ k - 1)).getLsbD i = decide (i < k) := by
    simp only [BitVec.getLsbD_ofNat, hi, decide_true, Bool.true_and, Nat.testBit_two_pow_sub_one]
  rw [BitVec.getLsbD_and, mask, Bool.and_comm]
  simp [hi]

/-- Settles O7, register by register and address by address. -/
theorem readAfterWrite : Obligations.ReadAfterWrite := by
  refine ⟨fun b v a h => ?_, fun b v => zeroExtend_lowBits v 2, fun b v => zeroExtend_lowBits v 4,
    fun b v a h => ?_, fun b v a a' h => regRead_regWriteData_of_ne h v b⟩
  · obtain ⟨r, hr, keeps⟩ := regAt_keepsByte h
    rw [regAt_eq_some hr, regWriteData_addrOf, regRead_addrOf, readReg_writeReg_same keeps]
  · obtain ⟨r, hr, e⟩ | ⟨-, e⟩ := regWriteData_cases a v b <;> rw [e]
    exact writeReg_eq_self (regAt_storesNothing h hr) v b

end Sys2Proof.Machine
end

section
/-! PROOFS. One accepted port access at a time: reads (20_memory.md R54), writes (R55), the operation that a write of CTRL
performs (R59, 30_encoding.md R70), and that the masters are not told apart (20_memory.md R58). -/

namespace Sys2Proof.Machine

/-! ### Reads -/

/-- A read is answered whatever the level of the reset input (20_memory.md R54; log 4). -/
theorem accept_read (m : Master) (a : Addr) (s : State) : accept (.access m (.read a)) s = .next (portRead a s) := by
  cases hr : s.resetAsserted with
  | true => simp [accept, hr, accessInReset]
  | false => simp [accept, hr, portAccess]

theorem step_read {s : State} {m : Master} {a : Addr} {rest : List Event} (h : s.port = .access m (.read a) :: rest) :
    step s = .next { s with port := rest, rdata := some (regRead s.block a) } := by
  rw [step_cons s h, accept_read]
  rfl

theorem toNat_hiByte (w : Word) : (hiByte w).toNat = w.toNat / 256 := by
  rw [hiByte, BitVec.extractLsb'_toNat, Nat.shiftRight_eq_div_pow]
  omega

theorem toNat_loByte (w : Word) : (loByte w).toNat = w.toNat % 256 := by
  rw [loByte, BitVec.extractLsb'_toNat, Nat.shiftRight_zero]

/-- The addresses at which the map has no register (20_memory.md R51). -/
theorem regAt_unmapped {a : Addr} (h : (0x0B ≤ a.toNat ∧ a.toNat ≤ 0x0F) ∨ (0x15 ≤ a.toNat ∧ a.toNat ≤ 0x17) ∨
    (0x21 ≤ a.toNat ∧ a.toNat ≤ 0x27) ∨ 0x2E ≤ a.toNat) : regAt a = none := by
  revert a
  decide

/-- Settles O4: a mapped address reads as its register, any other reads as 0. -/
theorem regReadFollowsTheMap : Obligations.RegReadFollowsTheMap := by
  refine ⟨fun b => ?_, fun _ _ _ _ h => step_read h, fun _ _ _ => rfl⟩
  have mapped := regRead_addrOf b
  have number : ∀ r, (regRead b (addrOf r)).toNat = (readReg b r).toNat := fun r => congrArg BitVec.toNat (mapped r)
  refine ⟨mapped .ctrl, mapped .status, mapped .crc, mapped .din, mapped .opcHi, mapped .opcLo, mapped .parHi,
    mapped .parLo, ?wcnt, ?rxlen, ?txlen, fun i => mapped (.txb i), fun i => mapped (.rxb i),
    fun i => (number (.wordHi i)).trans (toNat_hiByte _), fun i => (number (.wordLo i)).trans (toNat_loByte _),
    fun a h => ?unmapped⟩
  case wcnt => exact (number .wcnt).trans (BitVec.toNat_setWidth_of_le (by decide))
  case rxlen => exact (number .rxlen).trans (BitVec.toNat_setWidth_of_le (by decide))
  case txlen => exact (number .txlen).trans (BitVec.toNat_setWidth_of_le (by decide))
  case unmapped => simp [regRead, regAt_unmapped h]

/-! ### Writes -/

/-- A write of an address other than CTRL, accepted while the reset input is released, is its data part. -/
theorem step_write_data {s : State} {m : Master} {a : Addr} {v : Byte} {rest : List Event}
    (hr : s.resetAsserted = false) (h : s.port = .access m (.write a v) :: rest) (ha : a ≠ ctrlAddr) :
    step s = .next { s with port := rest, rdata := none, block := regWriteData a v s.block } := by
  rw [step_cons s h]
  simp [accept, hr, portAccess, regWrite, ha, State.withBlock]

/-- The next pending write of CTRL, with the reset input released, runs the operation its byte selects. -/
theorem step_write_ctrl {s : State} {m : Master} {v : Byte} {rest : List Event} (hr : s.resetAsserted = false)
    (h : s.port = .access m (.write ctrlAddr v) :: rest) :
    step s = exec (decodeByte v) { s with port := rest, rdata := none } := by
  rw [step_cons s h]
  exact accept_issue m v hr

/-- The low `k` bits of a byte, as the remainder they are. -/
theorem lowBits_eq_ofNat_mod (v : Byte) (k : Nat) : v.extractLsb' 0 k = BitVec.ofNat k (v.toNat % 2 ^ k) := by
  apply BitVec.eq_of_toNat_eq
  simp

theorem writeReg_writeReg (v : Byte) (b : Block) (r : Reg) : writeReg v (writeReg v b r) r = writeReg v b r := by
  cases r with
  | rxb i => simp [writeReg]
  | _ => rfl

/-- A repeated write of a data register is as one (20_memory.md R55). -/
theorem regWriteData_regWriteData (a : Addr) (v : Byte) (b : Block) :
    regWriteData a v (regWriteData a v b) = regWriteData a v b := by
  cases h : regAt a with
  | none => simp [regWriteData, h]
  | some r => simp [regWriteData, h, writeReg_writeReg]

/-- The data part of a write is nothing at the addresses of CTRL and of the read-only registers, and at the unmapped ones. -/
theorem regWriteData_eq_self {a : Addr} (h : a.toNat ≤ 0x01 ∨ (0x0A ≤ a.toNat ∧ a.toNat ≤ 0x17) ∨ 0x21 ≤ a.toNat)
    (v : Byte) (b : Block) : regWriteData a v b = b := by
  obtain ⟨-, -, -, ignored, -⟩ := readAfterWrite
  exact ignored b v a h

/-- Settles O6: CTRL runs the operation, a read-write address stores the byte or its low bits, any other stores nothing. -/
theorem regWriteFollowsTheMap : Obligations.RegWriteFollowsTheMap := by
  refine ⟨fun s m a v rest hr h => ?_, regWriteData_regWriteData⟩
  have stores : ∀ r, r ≠ .ctrl → a = addrOf r →
      step s = .next { s with port := rest, rdata := none, block := writeReg v s.block r } := by
    rintro r hc rfl
    rw [step_cons s h]
    exact accept_write m hc v hr
  refine ⟨?ctrl, stores .crc nofun, stores .din nofun, stores .opcHi nofun, stores .opcLo nofun, stores .parHi nofun,
    stores .parLo nofun, fun ha => ?wcnt, fun ha => ?rxlen, fun i => stores (.rxb i) nofun, fun ha => ?ignored⟩
  case ctrl =>
    rintro rfl
    exact step_write_ctrl hr h
  case wcnt => rw [stores .wcnt nofun ha, writeReg, lowBits_eq_ofNat_mod v 2]; rfl
  case rxlen => rw [stores .rxlen nofun ha, writeReg, lowBits_eq_ofNat_mod v 4]; rfl
  case ignored =>
    have other : a ≠ ctrlAddr := by rintro rfl; revert ha; decide
    have storesNone : a.toNat ≤ 0x01 ∨ (0x0A ≤ a.toNat ∧ a.toNat ≤ 0x17) ∨ 0x21 ≤ a.toNat :=
      ha.imp_left fun e => by rw [e]; decide
    rw [step_write_data hr h other, regWriteData_eq_self storesNone]

/-! ### The operation of a CTRL write -/

/-- The control byte of a well-formed operation selects that operation (30_encoding.md R72 to R74). -/
theorem decodeByte_encode {i : Instr} (h : i.wellFormed = true) : decodeByte (encode i) = i := by
  cases i with
  | illegalReservedOp op => revert op; decide
  | illegalZ z op =>
    have nonzero : fieldZ (z ++ op) ≠ 0 := by simpa [Instr.wellFormed] using h
    simpa [encode] using decodeByte_of_fieldZ_ne (z ++ op) nonzero
  | _ => rfl

/-- Settles O13: the accepted write runs what its byte decodes to, and an idle step changes nothing. -/
theorem stepRunsDecodedOperation : Obligations.StepRunsDecodedOperation := by
  refine ⟨fun s m v i rest hr h hd => ?_, fun s i rest m hw hr h => ?_, step_idle⟩
  · cases hd
    exact step_write_ctrl hr h
  · rw [step_write_ctrl hr h, decodeByte_encode hw]

/-! ### The masters' names -/

/-- The machine with the masters' names taken out of its pending events (20_memory.md R58). -/
def State.withoutNames (s : State) : State := { s with port := s.port.map anonymous }

theorem accept_anonymous (e : Event) (s : State) : accept (anonymous e) s = accept e s := by
  cases e <;> rfl

/-- A step does not look at the master's name, and the events that wait keep theirs or lose them as before. -/
theorem step_withoutNames {s t : State} (h : step s = .next t) : step s.withoutNames = .next t.withoutNames := by
  cases hp : s.port with
  | nil =>
    have idle : s.withoutNames.port = [] := by simp [State.withoutNames, hp]
    rw [step_idle s hp] at h
    cases h
    exact step_idle _ idle
  | cons e rest =>
    rw [step_cons s hp] at h
    have waiting : t.port = rest := accept_port h
    have pending : s.withoutNames.port = anonymous e :: rest.map anonymous := by simp [State.withoutNames, hp]
    have same := accept_withPort e { s with port := rest } (rest.map anonymous)
    rw [h, withPort_next, ← waiting] at same
    rw [step_cons _ pending, accept_anonymous, ← waiting]
    exact same

theorem run_succ_of_step {s u : State} (h : step s = .next u) (k : Nat) :
    Sys2Proof.core.run (k + 1) s = Sys2Proof.core.run k u := by
  simp only [Host.Core.run, show Sys2Proof.core.step s = .next u from h]

/-- Settles O8, by induction on the number of steps. -/
theorem mastersAreNotToldApart : Obligations.MastersAreNotToldApart := by
  intro k
  induction k with
  | zero => intro s t h; cases h; rfl
  | succ k ih =>
    intro s t h
    obtain ⟨u, hu, rest⟩ := run_succ_eq_next h
    exact (run_succ_of_step (step_withoutNames hu) k).trans (ih u t rest)

end Sys2Proof.Machine
end

section
/-! PROOFS. Encoding and decoding: control bytes against the opcode map and its rows (30_encoding.md R70 to R74), and port
transaction words (R76 to R78). -/

namespace Sys2Proof

/-! ### Control bytes -/

/-- The bytes whose Z is 0: the map's seven operations and the reserved ones (30_encoding.md R72, R73). -/
theorem decodeByte_zero_append : ∀ op : BitVec 4,
    (decodeByte (0#4 ++ op)).wellFormed = true ∧ encode (decodeByte (0#4 ++ op)) = 0#4 ++ op ∧
      ((decodeByte (0#4 ++ op)).isIllegal = true ↔ 7 ≤ op.toNat) := by
  decide

/-- A byte with Z = 0 is the extension of its OP (30_encoding.md R71). -/
theorem zero_append_fieldOp {v : Byte} (h : fieldZ v = 0) : 0#4 ++ fieldOp v = v := by
  simpa [h] using append_fields v

/-- Every byte selects a well-formed operation (30_encoding.md R72 to R74). -/
theorem decodeByte_wellFormed (v : Byte) : (decodeByte v).wellFormed = true := by
  by_cases hz : fieldZ v = 0
  · obtain ⟨wf, -, -⟩ := decodeByte_zero_append (fieldOp v)
    rwa [zero_append_fieldOp hz] at wf
  · rw [decodeByte_of_fieldZ_ne v hz]
    exact decide_eq_true hz

/-- The operation a byte selects has that byte as its control byte. -/
theorem encode_decodeByte (v : Byte) : encode (decodeByte v) = v := by
  by_cases hz : fieldZ v = 0
  · obtain ⟨-, back, -⟩ := decodeByte_zero_append (fieldOp v)
    rwa [zero_append_fieldOp hz] at back
  · rw [decodeByte_of_fieldZ_ne v hz]
    exact append_fields v

/-- The number of a byte from its fields (30_encoding.md R71). -/
theorem toNat_eq_fields (v : Byte) : v.toNat = (fieldZ v).toNat * 16 + (fieldOp v).toNat := by
  have number := Machine.toNat_append_eq_add (fieldZ v) (fieldOp v)
  rwa [append_fields] at number

/-- Exactly the bytes from 7 on are illegal (30_encoding.md R73, R74). -/
theorem decodeByte_isIllegal (v : Byte) : (decodeByte v).isIllegal = true ↔ 7 ≤ v.toNat := by
  have number := toNat_eq_fields v
  by_cases hz : fieldZ v = 0
  · obtain ⟨-, -, illegal⟩ := decodeByte_zero_append (fieldOp v)
    rw [zero_append_fieldOp hz] at illegal
    rw [illegal, number, hz]
    simp
  · have positive : (fieldZ v).toNat ≠ 0 := fun h => hz (BitVec.eq_of_toNat_eq h)
    rw [decodeByte_of_fieldZ_ne v hz]
    exact ⟨fun _ => by omega, fun _ => rfl⟩

/-- A row of the opcode table covers the control byte of a well-formed operation exactly when it has its mnemonic. -/
theorem covers_encode (i : Instr) : Laws.RowCovers.Statement i := by
  cases i with
  | nop => exact Laws.RowCovers.nop
  | crcInit => exact Laws.RowCovers.crcInit
  | crcByte => exact Laws.RowCovers.crcByte
  | crcWord => exact Laws.RowCovers.crcWord
  | encRd => exact Laws.RowCovers.encRd
  | encWr => exact Laws.RowCovers.encWr
  | decode => exact Laws.RowCovers.decode
  | illegalReservedOp op => exact Laws.RowCovers.illegalReservedOp op
  | illegalZ z op => exact Laws.RowCovers.illegalZ z op

/-- Every operation has exactly one row in the opcode table. -/
theorem opcodeTable_filter_mnemonic (i : Instr) :
    ∃ r, opcodeTable.filter (fun r => decide (r.mnemonic = i.mnemonic)) = [r] ∧ r.mnemonic = i.mnemonic := by
  cases i <;> exact ⟨_, rfl, rfl⟩

/-! ### Port transaction words -/

/-- A transaction word is its WE, ADDR and DATA side by side (30_encoding.md R76). -/
theorem portWord_append_fields (t : PortWord) :
    BitVec.ofBool (t.getLsbD 14) ++ t.extractLsb' 8 6 ++ t.extractLsb' 0 8 = t := by
  have we : BitVec.ofBool (t.getLsbD 14) = t.extractLsb' 14 1 := by
    apply BitVec.eq_of_getLsbD_eq
    intro i hi
    obtain rfl : i = 0 := by omega
    simp
  rw [we, BitVec.extractLsb'_append_extractLsb'_eq_extractLsb' (start₂ := 14) (start₁ := 8) rfl,
    BitVec.extractLsb'_append_extractLsb'_eq_extractLsb' (start₂ := 8) (start₁ := 0) rfl]
  exact BitVec.extractLsb'_eq_self

theorem decodePortWord_of_we {t : PortWord} (h : t.getLsbD 14 = true) :
    decodePortWord t = .write (t.extractLsb' 8 6) (t.extractLsb' 0 8) := if_pos h

theorem decodePortWord_of_not_we {t : PortWord} (h : t.getLsbD 14 = false) :
    decodePortWord t = .read (t.extractLsb' 8 6) := if_neg (by rw [h]; decide)

/-- The word of an access names that access (30_encoding.md R76). -/
theorem decodePortWord_encodePortWord (x : Access) : decodePortWord (encodePortWord x) = x := by
  cases x with
  | write a v => rw [encodePortWord, decodePortWord_of_we (portWord_we 1#1 a v), portWord_addr, portWord_data]
  | read a => rw [encodePortWord, decodePortWord_of_not_we (portWord_we 0#1 a 0#8), portWord_addr]

/-- The word of an access is well formed: WE is set in a write, and DATA is 0x00 in a read (30_encoding.md R76). -/
theorem encodePortWord_wellFormed (x : Access) : (encodePortWord x).wellFormed = true := by
  cases x with
  | write a v => rw [encodePortWord, PortWord.wellFormed, portWord_we 1#1 a v]; rfl
  | read a => rw [encodePortWord, PortWord.wellFormed, portWord_data 0#1 a 0#8]; exact Bool.or_true _

/-- A word whose DATA is 0x00 if it is a read is the word of the access it names (30_encoding.md R76). -/
theorem encodePortWord_decodePortWord {t : PortWord} (h : t.wellFormed = true) :
    encodePortWord (decodePortWord t) = t := by
  have fields := portWord_append_fields t
  cases we : t.getLsbD 14 with
  | true =>
    rw [we] at fields
    rw [decodePortWord_of_we we]
    exact fields
  | false =>
    rw [PortWord.wellFormed, we, Bool.false_or, decide_eq_true_eq] at h
    rw [we, h] at fields
    rw [decodePortWord_of_not_we we]
    exact fields

/-- Settles O11, from the fields of a control byte and of a transaction word. -/
theorem encodeDecodeRoundTrip : Obligations.EncodeDecodeRoundTrip := by
  refine ⟨fun i h rest => ?_, fun v => ⟨decodeByte_wellFormed v, encode_decodeByte v⟩,
    fun x => ⟨encodePortWord_wellFormed x, decodePortWord_encodePortWord x⟩, fun _ => encodePortWord_decodePortWord⟩
  rw [encodeBytes, List.singleton_append, decode_cons, Machine.decodeByte_encode h]

/-- Settles O9. -/
theorem opcodeMapWords : Obligations.OpcodeMapWords := ⟨rfl, rfl, rfl, rfl, rfl, rfl, rfl, rfl, rfl⟩

/-- Settles O10: the rows that cover a byte are the rows with the mnemonic of its operation. -/
theorem opcodeTableCoversEveryByte : Obligations.OpcodeTableCoversEveryByte := by
  intro v
  have covers := covers_encode (decodeByte v) (decodeByte_wellFormed v)
  rw [encode_decodeByte] at covers
  rw [List.filter_congr covers]
  exact opcodeTable_filter_mnemonic (decodeByte v)

/-! ### Transaction words as numbers -/

/-- A transaction word from its fields, each shifted to its place (30_encoding.md R76). -/
theorem portWord_eq_or (we : BitVec 1) (a : Addr) (v : Byte) : (we ++ a ++ v : BitVec 15) =
    we.zeroExtend 15 <<< 6 <<< 8 ||| a.zeroExtend 15 <<< 8 ||| v.zeroExtend 15 := by
  calc (we ++ a ++ v : BitVec 15)
      = (we ++ a ++ v).setWidth 15 := (BitVec.setWidth_eq _).symm
    _ = (we ++ a).setWidth 15 <<< 8 ||| v.setWidth 15 := BitVec.setWidth_append_eq_shiftLeft_setWidth_or
    _ = (we.setWidth 15 <<< 6 ||| a.setWidth 15) <<< 8 ||| v.setWidth 15 := by
      rw [BitVec.setWidth_append_eq_shiftLeft_setWidth_or]
    _ = _ := by rw [BitVec.shiftLeft_or_distrib]

/-- The word of a write: WE, ADDR and DATA at their bits (30_encoding.md R76). -/
theorem encodePortWord_write (a : Addr) (v : Byte) :
    encodePortWord (.write a v) = 0x4000 ||| (a.zeroExtend 15 <<< 8) ||| v.zeroExtend 15 := portWord_eq_or 1#1 a v

/-- The word of a read: ADDR at its bits (30_encoding.md R76). -/
theorem encodePortWord_read (a : Addr) : encodePortWord (.read a) = a.zeroExtend 15 <<< 8 :=
  (portWord_eq_or 0#1 a 0#8).trans (by simp)

end Sys2Proof

namespace Sys2Proof.Machine

/-- The word that issues a control byte (30_encoding.md R76). -/
theorem encodePortWord_write_ctrl (v : Byte) : encodePortWord (.write ctrlAddr v) = 0x4000 ||| v.zeroExtend 15 :=
  encodePortWord_write ctrlAddr v

/-- Settles O12: the words are those of a write and of a read, and a write of CTRL has ADDR 0. -/
theorem portWordExamples : Obligations.PortWordExamples := by
  refine ⟨fun v => ?_, rfl, rfl, encodePortWord_write, encodePortWord_read,
    fun i => encodePortWord_write_ctrl (encode i), encodePortWord_write_ctrl⟩
  rw [← encodePortWord_write_ctrl]
  exact decodePortWord_encodePortWord _

/-! ### Pseudo-instructions -/

/-- The word of a line that writes a register (30_encoding.md R76, R77). -/
theorem word_wr_addrOf (r : Reg) (v : Byte) : (AsmLine.wr (addrOf r) v).word =
    0x4000 ||| (addrOf r).zeroExtend 15 <<< 8 ||| v.zeroExtend 15 := encodePortWord_write (addrOf r) v

/-- The RXB registers stand at consecutive addresses from 0x18 on (20_memory.md R51). -/
theorem word_wr_rxb (k : Fin 9) (v : Byte) :
    (AsmLine.wr (addrOf (.rxb k)) v).word = BitVec.ofNat 15 (0x5800 + 0x100 * k.val) ||| v.zeroExtend 15 := by
  have fixedBits : 0x4000 ||| (addrOf (.rxb k)).zeroExtend 15 <<< 8 = BitVec.ofNat 15 (0x5800 + 0x100 * k.val) := by
    revert k; decide
  rw [word_wr_addrOf, fixedBits]

/-- The words of `load.rx` before the one of RXLEN, from register `i` on (30_encoding.md R78). -/
theorem loadRxLines_words (bytes : List Byte) (i : Nat) (h : i + bytes.length ≤ 9) :
    (loadRxLines i bytes).map AsmLine.word =
      bytes.mapIdx fun j v => BitVec.ofNat 15 (0x5800 + 0x100 * (i + j)) ||| v.zeroExtend 15 := by
  induction bytes generalizing i with
  | nil => rfl
  | cons v vs ih =>
    have fits : i + 1 + vs.length ≤ 9 := by simp only [List.length_cons] at h; omega
    have hi : i < 9 := by omega
    have later (j : Nat) : i + 1 + j = i + (j + 1) := by omega
    simp only [loadRxLines, hi, dite_true, List.map_cons, List.mapIdx_cons, word_wr_rxb,
      ih (i + 1) fits, later, Nat.add_zero]

/-- The word that writes the number of a reply's bytes into RXLEN (30_encoding.md R78). -/
theorem word_wr_rxlen {n : Nat} (h : n ≤ 9) :
    (AsmLine.wr (addrOf .rxlen) (BitVec.ofNat 8 n)).word = BitVec.ofNat 15 (0x4900 + n) := by
  revert n
  decide

/-- Settles O51: each line's word is that of its write, with the register's address in bits 13:8. -/
theorem pseudoExpansions : Obligations.PseudoExpansions := by
  refine ⟨fun w => ?opc, fun w => ?par, rfl, fun bytes => ?span, fun bytes _ most => ?rx, fun n => ?decode, fun v => ?crc⟩
  case opc => exact congrArg₂ (fun x y => [x, y]) (word_wr_addrOf .opcHi _) (word_wr_addrOf .opcLo _)
  case par => exact congrArg₂ (fun x y => [x, y]) (word_wr_addrOf .parHi _) (word_wr_addrOf .parLo _)
  case span =>
    have start : (AsmLine.op .crcInit).word = 0x4001 := rfl
    have one (v : Byte) : [AsmLine.wr (addrOf .din) v, .op .crcByte].map AsmLine.word =
        [0x4300 ||| v.zeroExtend 15, 0x4002] := congrArg (fun x => [x, 0x4002]) (word_wr_addrOf .din v)
    simp only [Pseudo.words, Pseudo.expand, List.map_cons, List.map_flatMap, start, one]
  case rx =>
    simp only [Pseudo.words, Pseudo.expand, List.map_append, List.map_cons, List.map_nil, word_wr_rxlen most,
      loadRxLines_words bytes 0 (by omega), Nat.zero_add]
  case decode => exact congrArg (fun x => [x, 0x4006]) (word_wr_addrOf .wcnt n)
  case crc => exact congrArg (fun x => [x]) (word_wr_addrOf .crc v)

/-! ### The operation that a placed word runs, and the illegal bytes -/

/-- Settles O14: the placed write is the next pending event. -/
theorem fetchWordRunsNext : Obligations.FetchWordRunsNext := by
  intro s nbits w i h
  obtain rfl : decodeByte (ctrlByteOf nbits w) = i := by simpa using h
  exact step_write_ctrl (s := s.withFetchWord nbits w) (rest := s.port) rfl rfl

/-- Every term of the two illegal rows performs the ILLEGAL_OP outcome (42_control.md R141). -/
theorem exec_of_isIllegal {i : Instr} (h : i.isIllegal = true) (s : State) :
    exec i s = .next (s.withBlock (raise .illegalOp 0 s.block)) := by
  cases i with
  | illegalReservedOp op => rfl
  | illegalZ z op => rfl
  | _ => cases h

/-- Settles O33. -/
theorem illegalByteOutcome : Obligations.IllegalByteOutcome :=
  ⟨decodeByte_isIllegal, fun v s h => exec_of_isIllegal ((decodeByte_isIllegal v).mpr h) s,
    fun _ s _ => exec_of_isIllegal rfl s, fun _ _ s _ => exec_of_isIllegal rfl s⟩

end Sys2Proof.Machine
end

section
/-! PROOFS. The frames of the checksum and frame operations, through what the port reads (30_encoding.md R72). -/

namespace Sys2Proof.Machine

/-- No operation touches the pending events, the reset input or the value of an earlier read. -/
theorem exec_surroundings {i : Instr} {s t : State} (he : exec i s = .next t) :
    t.port = s.port ∧ t.resetAsserted = s.resetAsserted ∧ t.rdata = s.rdata := by
  obtain ⟨b, e⟩ := exec_eq_withBlock i s
  cases e.symm.trans he
  exact ⟨rfl, rfl, rfl⟩

/-- An address reads the same from two blocks in which the register there, if any, does. -/
theorem regRead_congr {b c : Block} {a : Addr} (h : ∀ r, a = addrOf r → readReg c r = readReg b r) :
    regRead c a = regRead b a := by
  cases hr : regAt a with
  | none => simp [regRead, hr]
  | some r => simpa [regRead, hr] using h r (regAt_eq_some hr)

/-! ### What each update of the block leaves readable -/

theorem readReg_raise {r : Reg} (h : r ≠ .status) (res : Result) (n : BitVec 2) (b : Block) :
    readReg (raise res n b) r = readReg b r := by
  cases r with
  | status => exact absurd rfl h
  | _ => rfl

theorem readReg_newCrc {r : Reg} (h : r ≠ .crc) (c : Byte) (b : Block) :
    readReg { b with crc := c } r = readReg b r := by
  cases r with
  | crc => exact absurd rfl h
  | _ => rfl

theorem readReg_setFrame {r : Reg} (hl : r ≠ .txlen) (ht : ∀ i, r ≠ .txb i) (bytes : Vector Byte 5) (len : BitVec 3)
    (b : Block) : readReg (setFrame bytes len b) r = readReg b r := by
  cases r with
  | txlen => exact absurd rfl hl
  | txb i => exact absurd rfl (ht i)
  | _ => rfl

theorem readReg_setDecoded {r : Reg} (h : r ≠ .status) (d : Bool) (n : BitVec 2) (b : Block) :
    readReg (setDecoded d n b) r = readReg b r := by
  cases r with
  | status => exact absurd rfl h
  | _ => rfl

theorem readReg_setWords {r : Reg} (hh : ∀ i, r ≠ .wordHi i) (hl : ∀ i, r ≠ .wordLo i) (ws : Vector Word 3) (b : Block) :
    readReg (setWords ws b) r = readReg b r := by
  cases r with
  | wordHi i => exact absurd rfl (hh i)
  | wordLo i => exact absurd rfl (hl i)
  | _ => rfl

/-! ### The operations -/

/-- Each checksum operation gives CRC a new value and ends with OK (40_checksum.md R94 to R96). -/
theorem exec_checksum_eq {i : Instr} (h : i = .crcInit ∨ i = .crcByte ∨ i = .crcWord) (s : State) :
    ∃ c, exec i s = .next (s.withBlock (raise .ok 0 { s.block with crc := c })) := by
  rcases h with rfl | rfl | rfl <;> exact ⟨_, rfl⟩

/-- Each encode operation writes a new frame and ends with OK (41_frame_codec.md R112, R113). -/
theorem exec_encode_eq {i : Instr} (h : i = .encRd ∨ i = .encWr) (s : State) :
    ∃ bytes len, exec i s = .next (s.withBlock (raise .ok 0 (setFrame bytes len s.block))) := by
  rcases h with rfl | rfl <;> exact ⟨_, _, rfl⟩

/-- DECODE writes WORD and STATUS, however it ends (41_frame_codec.md R115, R118). -/
theorem decodeReply_eq_writes (b : Block) :
    ∃ res info d n ws, decodeReply b = raise res info (setDecoded d n (setWords ws b)) := by
  obtain ⟨-, e⟩ | ⟨i, -, -, -, -, e⟩ | ⟨-, -, e⟩ := decodeReply_cases b
  · exact ⟨_, _, _, _, _, e⟩
  · exact ⟨_, _, _, _, _, e⟩
  · exact ⟨_, _, _, _, _, e⟩

/-- Settles O35: every address but those of STATUS and CRC reads a register that a new CRC and a result leave. -/
theorem checksumOperationsFrame : Obligations.ChecksumOperationsFrame := by
  intro i s t hi he
  obtain ⟨c, e⟩ := exec_checksum_eq hi s
  refine ⟨fun a hs hc => regRead_congr ?_, ?_, ?_, exec_surroundings he⟩ <;> cases e.symm.trans he
  · rintro r rfl
    have notStatus : r ≠ .status := by rintro rfl; exact hs rfl
    have notCrc : r ≠ .crc := by rintro rfl; exact hc rfl
    exact (readReg_raise notStatus _ _ _).trans (readReg_newCrc notCrc _ _)
  · rfl
  · rfl

/-- The addresses of TXB (20_memory.md R51). -/
theorem addrOf_txb (i : Fin 5) : 0x10 ≤ (addrOf (.txb i)).toNat ∧ (addrOf (.txb i)).toNat ≤ 0x14 := by
  revert i; decide

/-- The addresses of the halves of WORD (20_memory.md R51). -/
theorem addrOf_word (i : Fin 3) : (0x28 ≤ (addrOf (.wordHi i)).toNat ∧ (addrOf (.wordHi i)).toNat ≤ 0x2D) ∧
    (0x28 ≤ (addrOf (.wordLo i)).toNat ∧ (addrOf (.wordLo i)).toNat ≤ 0x2D) := by
  revert i; decide

/-- Settles O36: every address but those of STATUS, TXLEN and TXB reads a register that a new frame and a result leave. -/
theorem encodeOperationsFrame : Obligations.EncodeOperationsFrame := by
  intro i s t hi he
  obtain ⟨bytes, len, e⟩ := exec_encode_eq hi s
  refine ⟨fun a hs hl ht => regRead_congr ?_, ?_, ?_, exec_surroundings he⟩ <;> cases e.symm.trans he
  · rintro r rfl
    have notStatus : r ≠ .status := by rintro rfl; exact hs rfl
    have notLength : r ≠ .txlen := by rintro rfl; exact hl rfl
    have notFrame : ∀ i, r ≠ .txb i := by rintro i rfl; exact ht (addrOf_txb i)
    exact (readReg_raise notStatus _ _ _).trans (readReg_setFrame notLength notFrame _ _ _)
  · rfl
  · rfl

/-- Settles O37: every address but those of STATUS and WORD reads a register that DECODE leaves, however it ends. -/
theorem decodeOperationFrame : Obligations.DecodeOperationFrame := by
  intro s t he
  obtain ⟨res, info, d, n, ws, e⟩ := decodeReply_eq_writes s.block
  refine ⟨fun a hs hw => regRead_congr ?_, exec_surroundings he⟩
  cases he
  rintro r rfl
  have notStatus : r ≠ .status := by rintro rfl; exact hs rfl
  have notHigh : ∀ i, r ≠ .wordHi i := by rintro i rfl; exact hw (addrOf_word i).1
  have notLow : ∀ i, r ≠ .wordLo i := by rintro i rfl; exact hw (addrOf_word i).2
  calc readReg (decodeReply s.block) r
      = readReg (raise res info (setDecoded d n (setWords ws s.block))) r := by rw [e]
    _ = readReg (setDecoded d n (setWords ws s.block)) r := readReg_raise notStatus _ _ _
    _ = readReg (setWords ws s.block) r := readReg_setDecoded notStatus _ _ _
    _ = readReg s.block r := readReg_setWords notHigh notLow _ _

end Sys2Proof.Machine
end

section
/-! PROOFS. The checksum function (40_checksum.md R90 to R93, R98) and its three operations (R94 to R97). -/

namespace Sys2Proof.Machine

/-! ### One iteration and one byte -/

/-- One iteration in arithmetic (40_checksum.md R90). -/
theorem toNat_crcStep (a : Byte) :
    (crcStep a).toNat = if 128 ≤ a.toNat then (2 * a.toNat % 256) ^^^ 0x31 else 2 * a.toNat % 256 := by
  have highBit : a.getLsbD 7 = decide (128 ≤ a.toNat) :=
    (BitVec.msb_eq_getLsbD_last a).symm.trans (BitVec.msb_eq_decide a)
  have shifted : (a <<< 1).toNat = 2 * a.toNat % 256 := by
    rw [BitVec.toNat_shiftLeft, Nat.shiftLeft_eq, Nat.mul_comm]
  rw [crcStep, highBit, ← shifted]
  by_cases h : 128 ≤ a.toNat
  · rw [if_pos (decide_eq_true h), if_pos h, BitVec.toNat_xor]; rfl
  · rw [if_neg (by simpa using h), if_neg h]

theorem crcSteps_eq_iterate (n : Nat) (x : Byte) : crcSteps n x = crcStep^[n] x := by
  induction n generalizing x with
  | zero => rfl
  | succ n ih => rw [crcSteps_succ, ih, Function.iterate_succ_apply]

theorem crcUpdate_eq_iterate (a b : Byte) : crcUpdate a b = crcStep^[8] (a ^^^ b) := crcSteps_eq_iterate 8 (a ^^^ b)

/-- Only 0 is sent to 0: the polynomial is odd, and a shifted byte is even. -/
theorem eq_zero_of_crcStep_eq_zero {a : Byte} (h : crcStep a = 0) : a = 0 := by
  have number : (crcStep a).toNat = 0 := congrArg BitVec.toNat h
  rw [toNat_crcStep] at number
  have zero : a.toNat = 0 := by
    split at number
    · have even : 2 * a.toNat % 256 = 0x31 := Nat.xor_eq_zero_iff.mp number
      omega
    · omega
  exact BitVec.eq_of_toNat_eq zero

theorem crcStep_injective : Function.Injective crcStep := by
  intro a b h
  have same : crcStep (a ^^^ b) = 0 := by rw [crcStep_xor, h]; exact BitVec.xor_self
  exact BitVec.xor_eq_zero_iff.mp (eq_zero_of_crcStep_eq_zero same)

@[simp] theorem crcStep_iterate_zero (n : Nat) : crcStep^[n] 0 = 0 := Function.iterate_fixed rfl n

/-- A byte folded into itself leaves 0, and only then is the result 0 (40_checksum.md R95). -/
theorem crcUpdate_eq_zero_iff (a b : Byte) : crcUpdate a b = 0 ↔ a = b := by
  rw [crcUpdate_eq_iterate, ← BitVec.xor_eq_zero_iff (x := a)]
  exact (crcStep_injective.iterate 8).eq_iff' (crcStep_iterate_zero 8)

theorem crcUpdate_xor (a b x y : Byte) : crcUpdate (a ^^^ b) (x ^^^ y) = crcUpdate a x ^^^ crcUpdate b y := by
  have regroup : a ^^^ b ^^^ (x ^^^ y) = a ^^^ x ^^^ (b ^^^ y) := by ac_rfl
  rw [crcUpdate, regroup, crcSteps_xor]
  rfl

/-! ### Spans -/

theorem checksum_append (s t : List Byte) : checksum (s ++ t) = crcFold (checksum s) t := crcFold_append _ s t

/-- The worked example of 40_checksum.md R90 and R96. -/
theorem checksum_example : checksum [0xBE, 0xEF] = 0x92 := by decide +kernel

/-- Settles O17: a last byte is folded last, since the fold over an append is the fold over its parts. -/
theorem checksumAlgorithm : Obligations.ChecksumAlgorithm :=
  ⟨toNat_crcStep, crcUpdate_eq_iterate, rfl, fun s b => checksum_append s [b], checksum_example⟩

/-- The fold is additive in the accumulator and the span together (40_checksum.md R93). -/
theorem crcFold_xor (a b : Byte) {s t : List Byte} (h : s.length = t.length) :
    crcFold (a ^^^ b) (List.zipWith (· ^^^ ·) s t) = crcFold a s ^^^ crcFold b t := by
  induction s generalizing a b t with
  | nil =>
    obtain rfl : t = [] := List.length_eq_zero_iff.mp h.symm
    rfl
  | cons x s ih =>
    match t with
    | y :: t =>
      have tails : s.length = t.length := Nat.succ.inj h
      simp only [List.zipWith_cons_cons, crcFold_cons, crcUpdate_xor, ih _ _ tails]

/-- XOR with zero bytes changes no span. -/
theorem zipWith_xor_zeros (s : List Byte) : List.zipWith (· ^^^ ·) s (List.replicate s.length 0) = s := by
  induction s with
  | nil => rfl
  | cons x s ih => simpa [List.replicate_succ] using ih

/-- Settles O18: `INIT` is the XOR of three `INIT`s, and the bytewise XOR is that XOR with as many zero bytes. -/
theorem checksumAffine : Obligations.ChecksumAffine := by
  intro s t h
  have width : (List.zipWith (· ^^^ ·) s t).length = s.length := by simp [h]
  have inits : Config.init = Config.init ^^^ Config.init ^^^ Config.init := rfl
  have zeros := zipWith_xor_zeros (List.zipWith (· ^^^ ·) s t)
  rw [width] at zeros
  calc checksum (List.zipWith (· ^^^ ·) s t)
      = crcFold (Config.init ^^^ Config.init ^^^ Config.init)
          (List.zipWith (· ^^^ ·) (List.zipWith (· ^^^ ·) s t) (List.replicate s.length 0)) := by
        rw [zeros, ← inits]; rfl
    _ = crcFold (Config.init ^^^ Config.init) (List.zipWith (· ^^^ ·) s t) ^^^ checksum (List.replicate s.length 0) :=
        crcFold_xor _ _ (by simp [h])
    _ = checksum s ^^^ checksum t ^^^ checksum (List.replicate s.length 0) := by rw [crcFold_xor _ _ h]; rfl

/-! ### The byte table -/

/-- The transcribed table is the table of the function (40_checksum.md R98). -/
theorem crcTable_eq_map : crcTable = (List.range 256).map fun x => crcUpdate 0 (BitVec.ofNat 8 x) := by decide +kernel

theorem crcTable_getElem? (x : Byte) : crcTable[x.toNat]? = some (crcUpdate 0 x) := by
  have inRange : x.toNat < 256 := x.isLt
  simp [crcTable_eq_map, inRange]

/-- One byte's fold depends on the XOR of accumulator and byte alone. -/
theorem crcUpdate_eq_zero_xor (a b : Byte) : crcUpdate a b = crcUpdate 0 (a ^^^ b) := by
  simp [crcUpdate]

/-- Settles O19: an entry of the table is a fold from 0, and a fold sees only the XOR of accumulator and byte. -/
theorem tableComputesUpdate : Obligations.TableComputesUpdate := by
  refine ⟨by simp [crcTable_eq_map], crcTable_getElem?, fun a b => ?_⟩
  rw [crcUpdateByTable, crcTableAt, List.getD_eq_getElem?_getD, crcTable_getElem?]
  exact crcUpdate_eq_zero_xor a b

/-! ### The operations -/

/-- Settles O23: the meaning of the operation is this state. -/
theorem crcInitResult : Obligations.CrcInitResult := ⟨rfl, fun _ => rfl⟩

/-- Settles O24: the meaning of the operation is this state, and equal bytes cancel before the iterations. -/
theorem crcByteResult : Obligations.CrcByteResult :=
  ⟨rfl, fun _ => rfl, fun a => (crcUpdate_eq_zero_iff a a).mpr rfl, by decide, by decide⟩

/-- Settles O25: the meaning of the operation is this state; the corner cases are computed. -/
theorem crcWordResult : Obligations.CrcWordResult :=
  ⟨rfl, fun _ => rfl, by decide +kernel, by decide +kernel, by decide +kernel, checksum_example⟩

/-! ### The byte-serial sequence -/

/-- The accesses that fold one byte into CRC (40_checksum.md R97). -/
def foldAccesses (v : Byte) : List Access := [.write (addrOf .din) v, issueAccess .crcByte]

theorem spanAccesses_eq (span : List Byte) : spanAccesses span = issueAccess .crcInit :: span.flatMap foldAccesses := rfl

/-- One byte's accesses leave DIN the byte and CRC its fold, with the result OK. -/
theorem serve_foldAccesses (m : Master) (v : Byte) (es : List Event) {s : State} (hr : s.resetAsserted = false) :
    serve (eventsOf m (foldAccesses v) ++ es) s = serve es { s with
      rdata := none, block := raise .ok 0 { s.block with din := v, crc := crcUpdate s.block.crc v } } :=
  (serve_write m .din nofun v _ s hr).trans (serve_issue m .crcByte es hr rfl rfl)

/-- The accesses of a span fold it into whatever CRC holds. -/
theorem serve_span (m : Master) (span : List Byte) {s : State} (hr : s.resetAsserted = false) :
    ∃ t, serve (eventsOf m (span.flatMap foldAccesses)) s = .next t ∧ t.block.crc = crcFold s.block.crc span ∧
      t.port = s.port := by
  induction span generalizing s with
  | nil => exact ⟨s, rfl, rfl, rfl⟩
  | cons v span ih =>
    have split : eventsOf m ((v :: span).flatMap foldAccesses) =
        eventsOf m (foldAccesses v) ++ eventsOf m (span.flatMap foldAccesses) := List.map_append
    rw [split, serve_foldAccesses m v _ hr]
    exact ih hr

/-- CRC_INIT and the accesses of a span leave its checksum (40_checksum.md R97). -/
theorem serve_spanAccesses (m : Master) (span : List Byte) {s : State} (hr : s.resetAsserted = false) :
    ∃ t, serve (eventsOf m (spanAccesses span)) s = .next t ∧ t.block.crc = checksum span ∧ t.port = s.port := by
  have start : serve (eventsOf m (spanAccesses span)) s = serve (eventsOf m (span.flatMap foldAccesses))
      { s with rdata := none, block := raise .ok 0 { s.block with crc := Config.init } } := by
    rw [spanAccesses_eq]; exact serve_issue m .crcInit _ hr rfl rfl
  rw [start]
  exact serve_span m span hr

/-- Settles O20: each byte's accesses fold it into CRC, and CRC_WORD computes the checksum of the two bytes of PAR. -/
theorem byteSerialChecksum : Obligations.ByteSerialChecksum := by
  refine ⟨fun m span s hr => serve_spanAccesses m span hr, fun m s hr => ?_⟩
  obtain ⟨t, served, crc, -⟩ := serve_spanAccesses m [s.block.parHi, s.block.parLo] hr
  exact ⟨t, _, served, rfl, crc⟩

end Sys2Proof.Machine
end

section
/-! PROOFS. What the check of a group detects (40_checksum.md R99). The check fails exactly when the syndrome of the error
pattern is not 0, and the syndrome is additive over the pattern's bits, of which bit `i` contributes the byte 1 after
`8 + i` iterations. -/

namespace Sys2Proof.Machine

/-! ### Additive maps of bit vectors -/

/-- A map that sends XOR to XOR. -/
def XorHom {m n : Nat} (f : BitVec m → BitVec n) : Prop := ∀ x y, f (x ^^^ y) = f x ^^^ f y

/-- The positions of the bits that are set, in rising order. -/
def onesOf {w : Nat} (x : BitVec w) : List Nat := (List.range w).filter x.getLsbD

theorem mem_onesOf {w : Nat} {x : BitVec w} {i : Nat} : i ∈ onesOf x ↔ i < w ∧ x.getLsbD i = true := by
  simp [onesOf]

theorem lt_of_mem_onesOf {w : Nat} {x : BitVec w} {i : Nat} (h : i ∈ onesOf x) : i < w := (mem_onesOf.mp h).1

theorem onesOf_pairwise_lt {w : Nat} (x : BitVec w) : (onesOf x).Pairwise (· < ·) :=
  List.pairwise_lt_range.filter _

theorem errorWeight_eq_length (e : BitVec 24) : errorWeight e = (onesOf e).length := List.countP_eq_length_filter

/-- The XOR of the bit vectors that `f` gives the members of a list. -/
def xorSum {n : Nat} (f : Nat → BitVec n) (l : List Nat) : BitVec n := l.foldr (fun i y => f i ^^^ y) 0

@[simp] theorem xorSum_nil {n : Nat} (f : Nat → BitVec n) : xorSum f [] = 0 := rfl

@[simp] theorem xorSum_cons {n : Nat} (f : Nat → BitVec n) (i : Nat) (l : List Nat) :
    xorSum f (i :: l) = f i ^^^ xorSum f l := rfl

theorem xorSum_congr {n : Nat} {f g : Nat → BitVec n} {l : List Nat} (h : ∀ i ∈ l, f i = g i) :
    xorSum f l = xorSum g l := List.foldr_ext _ _ _ fun i hi _ => by rw [h i hi]

theorem xorSum_xor {n : Nat} (f g : Nat → BitVec n) (l : List Nat) :
    xorSum (fun i => f i ^^^ g i) l = xorSum f l ^^^ xorSum g l := by
  induction l with
  | nil => simp
  | cons i l ih =>
    simp only [xorSum_cons, ih]
    ac_rfl

/-- A XOR of distinct single bits has exactly those bits. -/
theorem getLsbD_xorSum_twoPow {w : Nat} {l : List Nat} (distinct : l.Nodup) {j : Nat} (hj : j < w) :
    (xorSum (BitVec.twoPow w) l).getLsbD j = decide (j ∈ l) := by
  induction l with
  | nil => simp
  | cons i l ih =>
    obtain ⟨fresh, rest⟩ := List.nodup_cons.mp distinct
    rw [xorSum_cons, BitVec.getLsbD_xor, ih rest, BitVec.getLsbD_twoPow]
    by_cases h : j = i
    · subst h
      simp [hj, fresh]
    · simp [h, Ne.symm h]

/-- A bit vector is the XOR of the bits that are set in it. -/
theorem xorSum_twoPow_onesOf {w : Nat} (x : BitVec w) : xorSum (BitVec.twoPow w) (onesOf x) = x := by
  apply BitVec.eq_of_getLsbD_eq
  intro j hj
  have distinct : (onesOf x).Nodup := (onesOf_pairwise_lt x).imp Nat.ne_of_lt
  rw [getLsbD_xorSum_twoPow distinct hj]
  simp [mem_onesOf, hj]

namespace XorHom
variable {m n : Nat} {f g : BitVec m → BitVec n}

theorem map_zero (hf : XorHom f) : f 0 = 0 := by
  have twice := hf 0 0
  rwa [BitVec.xor_self, BitVec.xor_self] at twice

theorem map_xorSum (hf : XorHom f) (bit : Nat → BitVec m) (l : List Nat) :
    f (xorSum bit l) = xorSum (fun i => f (bit i)) l := by
  induction l with
  | nil => exact hf.map_zero
  | cons i l ih => rw [xorSum_cons, hf, ih, xorSum_cons]

/-- An additive map is the XOR of its values at the bits that are set. -/
theorem apply_eq_xorSum (hf : XorHom f) (x : BitVec m) : f x = xorSum (fun i => f (BitVec.twoPow m i)) (onesOf x) := by
  rw [← hf.map_xorSum, xorSum_twoPow_onesOf]

/-- Two additive maps with the same values at the single bits are the same. -/
theorem eq_of_bits (hf : XorHom f) (hg : XorHom g) (h : ∀ i < m, f (BitVec.twoPow m i) = g (BitVec.twoPow m i))
    (x : BitVec m) : f x = g x := by
  rw [hf.apply_eq_xorSum, hg.apply_eq_xorSum]
  exact xorSum_congr fun i hi => h i (lt_of_mem_onesOf hi)

end XorHom

/-! ### The syndrome -/

/-- The bytes of a group given as 24 bits, first byte in bits 23:16 (40_checksum.md R99). -/
def groupBytesOf (g : BitVec 24) : List Byte := [g.extractLsb' 16 8, g.extractLsb' 8 8, g.extractLsb' 0 8]

theorem groupBytesOf_xor (g e : BitVec 24) :
    groupBytesOf (g ^^^ e) = List.zipWith (· ^^^ ·) (groupBytesOf g) (groupBytesOf e) := by
  simp [groupBytesOf, BitVec.extractLsb'_xor]

/-- A span followed by its checksum has the checksum 0, and no other byte gives it that (40_checksum.md R99). -/
theorem checksum_snoc_eq_zero_iff (s : List Byte) (c : Byte) : checksum (s ++ [c]) = 0 ↔ c = checksum s := by
  rw [checksum_append, crcFold_cons, crcFold_nil, crcUpdate_eq_zero_iff, eq_comm]

theorem groupPasses_iff (g : BitVec 24) : groupPasses g = true ↔ checksum (groupBytesOf g) = 0 :=
  (groupCheck_iff _ _ _).trans (checksum_snoc_eq_zero_iff [g.extractLsb' 16 8, g.extractLsb' 8 8] _).symm

/-- What an error pattern adds to the checksum of a group. -/
def syndrome (e : BitVec 24) : Byte := crcFold 0 (groupBytesOf e)

theorem checksum_groupBytesOf_xor (g e : BitVec 24) :
    checksum (groupBytesOf (g ^^^ e)) = checksum (groupBytesOf g) ^^^ syndrome e := by
  have start : Config.init = Config.init ^^^ 0 := rfl
  rw [checksum, start, groupBytesOf_xor]
  exact crcFold_xor _ _ rfl

theorem syndrome_xorHom : XorHom syndrome := by
  intro x y
  rw [syndrome, groupBytesOf_xor]
  exact crcFold_xor 0 0 rfl

/-- An error whose syndrome is not 0 is detected. -/
theorem groupPasses_xor_eq_false {g e : BitVec 24} (passes : groupPasses g = true) (h : syndrome e ≠ 0) :
    groupPasses (g ^^^ e) = false := by
  rw [groupPasses_iff] at passes
  rw [← Bool.not_eq_true, groupPasses_iff, checksum_groupBytesOf_xor, passes]
  simpa using h

/-- The syndrome of one bit: as many iterations of the byte 1 as the bit is shifted. -/
theorem syndrome_twoPow {i : Nat} (hi : i < 24) : syndrome (BitVec.twoPow 24 i) = crcStep^[8 + i] 1 := by
  revert i
  decide +kernel

theorem crcStep_iterate_xorHom (n : Nat) : XorHom crcStep^[n] := fun x y => by
  simp only [← crcSteps_eq_iterate, crcSteps_xor]

/-! ### Odd weight -/

/-- The parity of a byte: the XOR of its bits. -/
def parity (a : Byte) : BitVec 1 := xorSum (fun i => a.extractLsb' i 1) (List.range 8)

theorem parity_xorHom : XorHom parity := fun a b => by
  simp only [parity, BitVec.extractLsb'_xor, xorSum_xor]

/-- The polynomial has even weight, so an iteration keeps the parity. -/
theorem parity_crcStep (a : Byte) : parity (crcStep a) = parity a := by
  revert a
  decide +kernel

theorem parity_iterate (n : Nat) (a : Byte) : parity (crcStep^[n] a) = parity a := by
  induction n generalizing a with
  | zero => rfl
  | succ n ih => rw [Function.iterate_succ_apply, ih, parity_crcStep]

theorem xorSum_one (l : List Nat) : xorSum (fun _ => 1) l = BitVec.ofNat 1 l.length := by
  have flip : ∀ y : BitVec 1, 1 ^^^ y = y + 1#1 := by decide
  induction l with
  | nil => rfl
  | cons i l ih => rw [xorSum_cons, ih, flip, List.length_cons, BitVec.ofNat_add]

/-- The parity of the syndrome is that of the weight. -/
theorem parity_syndrome (e : BitVec 24) : parity (syndrome e) = BitVec.ofNat 1 (errorWeight e) := by
  have additive : XorHom fun e => parity (syndrome e) := fun x y => by
    simp only [syndrome_xorHom x y, parity_xorHom (syndrome x) (syndrome y)]
  have single : ∀ i ∈ onesOf e, parity (syndrome (BitVec.twoPow 24 i)) = 1 := fun i hi => by
    rw [syndrome_twoPow (lt_of_mem_onesOf hi), parity_iterate]
    rfl
  rw [additive.apply_eq_xorSum, errorWeight_eq_length, ← xorSum_one]
  exact xorSum_congr single

theorem syndrome_ne_zero_of_odd {e : BitVec 24} (h : errorWeight e % 2 = 1) : syndrome e ≠ 0 := by
  intro zero
  have odd := congrArg BitVec.toNat (parity_syndrome e)
  rw [zero, BitVec.toNat_ofNat, pow_one, h] at odd
  exact absurd odd (by decide)

/-! ### Weight 2 -/

/-- The polynomial divides no `x ^ d + 1` with `d` below 24: two single-bit errors never cancel. -/
theorem crcStep_iterate_one_ne_one : ∀ d < 24, 0 < d → crcStep^[d] 1 ≠ 1 := by
  decide +kernel

theorem syndrome_ne_zero_of_weight_two {e : BitVec 24} (h : errorWeight e = 2) : syndrome e ≠ 0 := by
  rw [errorWeight_eq_length, List.length_eq_two] at h
  obtain ⟨i, j, ones⟩ := h
  have lt : i < j := by simpa [ones] using onesOf_pairwise_lt e
  have hj : j < 24 := lt_of_mem_onesOf (x := e) (by simp [ones])
  have apart : crcStep^[j - i] 1 ≠ 1 := crcStep_iterate_one_ne_one _ (by omega) (by omega)
  have later : crcStep^[8 + j] 1 = crcStep^[8 + i] (crcStep^[j - i] 1) := by
    rw [← Function.iterate_add_apply, show 8 + i + (j - i) = 8 + j by omega]
  have sum : syndrome e = crcStep^[8 + i] 1 ^^^ crcStep^[8 + i] (crcStep^[j - i] 1) := by
    rw [← later, ← syndrome_twoPow hj, ← syndrome_twoPow (lt.trans hj), syndrome_xorHom.apply_eq_xorSum, ones]
    simp
  rw [sum]
  exact fun zero => apart (crcStep_injective.iterate _ (BitVec.xor_eq_zero_iff.mp zero)).symm

/-! ### Bursts -/

/-- The syndrome of a byte that stands `k` bits up is that byte after as many more iterations. -/
theorem syndrome_shifted_byte (b : Byte) {k : Nat} (hk : k ≤ 16) :
    syndrome (b.setWidth 24 <<< k) = crcStep^[8 + k] b := by
  have additive : XorHom fun b : Byte => syndrome (b.setWidth 24 <<< k) := fun x y => by
    simp only [BitVec.setWidth_xor, BitVec.shiftLeft_xor_distrib, syndrome_xorHom _ _]
  have early : ∀ i < 8, BitVec.twoPow 8 i = crcStep^[i] 1 := by decide +kernel
  refine additive.eq_of_bits (crcStep_iterate_xorHom (8 + k)) (fun i hi => ?_) b
  have moved : (BitVec.twoPow 8 i).setWidth 24 <<< k = BitVec.twoPow 24 (k + i) := by
    apply BitVec.eq_of_getLsbD_eq
    intro j hj
    rw [Bool.eq_iff_iff]
    simp only [BitVec.getLsbD_shiftLeft, BitVec.getLsbD_setWidth, BitVec.getLsbD_twoPow, Bool.and_eq_true,
      Bool.not_eq_true', decide_eq_true_eq, decide_eq_false_iff_not]
    omega
  rw [moved, syndrome_twoPow (by omega), early i hi, ← Function.iterate_add_apply, Nat.add_assoc]

/-- A burst is a byte that stands some bits up. -/
theorem exists_byte_of_isBurst {e : BitVec 24} (h : isBurst e) :
    ∃ (b : Byte) (k : Nat), k ≤ 16 ∧ e = b.setWidth 24 <<< k := by
  obtain ⟨k, within⟩ := h
  refine ⟨(e >>> min k 16).setWidth 8, min k 16, by omega, ?_⟩
  apply BitVec.eq_of_getLsbD_eq
  intro i hi
  by_cases low : i < min k 16
  · have clear : e.getLsbD i = false := Bool.eq_false_iff.mpr fun h => by have := within i h; omega
    simp [low, clear]
  · have back : min k 16 + (i - min k 16) = i := by omega
    have inByte : e.getLsbD i = true → i - min k 16 < 8 := fun h => by have := within i h; omega
    simpa [low, back, hi] using inByte

theorem syndrome_ne_zero_of_burst {e : BitVec 24} (nonzero : e ≠ 0) (h : isBurst e) : syndrome e ≠ 0 := by
  obtain ⟨b, k, hk, rfl⟩ := exists_byte_of_isBurst h
  rw [syndrome_shifted_byte b hk]
  intro zero
  have none : b = 0 := crcStep_injective.iterate _ (zero.trans (crcStep_iterate_zero _).symm)
  exact nonzero (by simp [none])

/-- Settles O21: the syndrome of every such pattern is not 0. One bit is a pattern of odd weight. -/
theorem residueAndErrorDetection : Obligations.ResidueAndErrorDetection := by
  refine ⟨fun w => (checksum_snoc_eq_zero_iff [hiByte w, loByte w] _).mpr rfl, fun g e nonzero kinds passes => ?_⟩
  refine groupPasses_xor_eq_false passes ?_
  obtain single | double | odd | burst := kinds
  · exact syndrome_ne_zero_of_odd (by omega)
  · exact syndrome_ne_zero_of_weight_two double
  · exact syndrome_ne_zero_of_odd odd
  · exact syndrome_ne_zero_of_burst nonzero burst

end Sys2Proof.Machine
end

section
/-! PROOFS. The frame codec (41_frame_codec.md): the two encode operations (R110, R112, R113), the three ways DECODE ends
(R115 to R119), and their agreement with the SCD4X functions (R120, R121). -/

namespace Sys2Proof.Machine

/-! ### The encode operations -/

/-- Settles O26: the meaning of the operation is this state. -/
theorem encRdResult : Obligations.EncRdResult := ⟨rfl, fun _ => rfl⟩

/-- Settles O27: the meaning of the operation is this state; the corner cases are those of CRC_WORD. -/
theorem encWrResult : Obligations.EncWrResult := by
  obtain ⟨-, -, zeros, ones, high, -⟩ := crcWordResult
  exact ⟨rfl, fun _ => rfl, zeros, ones, high, by decide +kernel⟩

/-- Settles O44: TXLEN cuts TXB after the bytes that the operation wrote. -/
theorem outgoingFrameLayout : Obligations.OutgoingFrameLayout :=
  ⟨fun _ => ⟨_, rfl, rfl⟩, fun _ => ⟨_, rfl, rfl⟩⟩

@[simp] theorem wordBytes_wordOf (hi lo : Byte) : wordBytes (wordOf hi lo) = [hi, lo] := by simp [wordBytes]

/-! ### The three ways DECODE ends -/

/-- A group passes when its checksum byte is the checksum of its word's bytes (41_frame_codec.md R117). -/
theorem groupOk_iff (b : Block) (i : Fin 3) :
    b.groupOk i = true ↔ b.rxb[3 * i.val + 2] = checksum [b.rxb[3 * i.val], b.rxb[3 * i.val + 1]] :=
  groupCheck_iff _ _ _

/-- A wrong length is reported before any checksum is looked at (41_frame_codec.md R116). -/
theorem decodeReply_of_length_ne {b : Block} (h : b.replyLength ≠ 3 * b.wordCount) :
    decodeReply b = decodeFail .lengthError 0 b := by rw [decodeReply_eq, if_pos h]

/-- The lowest failing index is reported (41_frame_codec.md R117). -/
theorem decodeReply_of_first_bad {b : Block} {i : Fin 3} (len : b.replyLength = 3 * b.wordCount)
    (asked : i.val < b.wordCount) (bad : b.groupOk i = false) (earlier : ∀ j < i, b.groupOk j = true) :
    decodeReply b = decodeFail .crcMismatch (BitVec.ofNat 2 i.val) b := by
  have first : b.firstBadGroup = some i := (firstBadGroup_eq_some b i).mpr ⟨asked, bad, earlier⟩
  simp [decodeReply_eq, len, first]

/-- Passing groups are decoded (41_frame_codec.md R115). -/
theorem decodeReply_of_all_pass {b : Block} (len : b.replyLength = 3 * b.wordCount)
    (pass : ∀ i : Fin 3, i.val < b.wordCount → b.groupOk i = true) : decodeReply b = decodeOk b := by
  have noBad : b.firstBadGroup = none := (firstBadGroup_eq_none b).mpr pass
  simp [decodeReply_eq, len, noBad]

/-- The words of a successful DECODE, one by one (41_frame_codec.md R115). -/
@[simp] theorem decodeOk_word_getElem (b : Block) (i : Fin 3) :
    (decodeOk b).word[i] = if i.val < b.wordCount then b.groupWord i else 0 := by
  simp [decodeOk]

/-- DECODE replaces the block by what it makes of the reply. -/
theorem exec_decode_of_eq {s : State} {b : Block} (h : decodeReply s.block = b) :
    exec .decode s = .next (s.withBlock b) := by rw [← h]; rfl

/-- Settles O28: every group asked for passes, and the words of the success are these three. -/
theorem decodeSuccess : Obligations.DecodeSuccess :=
  ⟨rfl, fun s len pass => exec_decode_of_eq <|
    decodeReply_of_all_pass len fun i asked => (groupOk_iff s.block i).mpr (pass i asked)⟩

/-- Settles O29: the length is looked at first, and three times WCNT is at most 9. -/
theorem decodeLengthError : Obligations.DecodeLengthError :=
  ⟨fun _ len => exec_decode_of_eq (decodeReply_of_length_ne len), fun s long => by omega⟩

/-- Settles O30: group `i` is the first that fails. -/
theorem decodeChecksumMismatch : Obligations.DecodeChecksumMismatch := by
  intro s i len asked fails earlier
  have bad : s.block.groupOk i = false := Bool.eq_false_iff.mpr fun ok => fails ((groupOk_iff s.block i).mp ok)
  exact exec_decode_of_eq <|
    decodeReply_of_first_bad len asked bad fun j hj => (groupOk_iff s.block j).mpr (earlier j hj)

/-- Both failures clear the words and what says that there are any (41_frame_codec.md R118). -/
theorem decodeFail_no_data (r : Result) (n : BitVec 2) (b : Block) :
    (∀ i : Fin 3, (decodeFail r n b).word[i] = 0) ∧ (decodeFail r n b).status.dvalid = false ∧
      (decodeFail r n b).status.dcnt = 0 := ⟨fun i => by simp [decodeFail], rfl, rfl⟩

/-- Settles O31: of the three ways DECODE ends, two are failures, and the third reports OK. -/
theorem decodeFailureLeavesNoData : Obligations.DecodeFailureLeavesNoData := by
  intro s t he failed
  cases he
  obtain ⟨-, e⟩ | ⟨i, -, -, -, -, e⟩ | ⟨-, -, e⟩ := decodeReply_cases s.block
  · simpa [e] using decodeFail_no_data .lengthError 0 s.block
  · simpa [e] using decodeFail_no_data .crcMismatch (BitVec.ofNat 2 i.val) s.block
  · simp [e, decodeOk] at failed

/-! ### What DECODE reads -/

section Agreement

/-- Blocks that hold the same length, count and groups asked for (41_frame_codec.md R119). -/
structure SameReply (b c : Block) : Prop where
  count : b.wcnt = c.wcnt
  length : b.rxlen = c.rxlen
  bytes : ∀ k : Fin 9, k.val < 3 * b.wordCount → b.rxb[k] = c.rxb[k]

variable {b c : Block}

theorem SameReply.wordCount_eq (h : SameReply b c) : b.wordCount = c.wordCount := congrArg BitVec.toNat h.count

theorem SameReply.replyLength_eq (h : SameReply b c) : b.replyLength = c.replyLength := congrArg BitVec.toNat h.length

/-- The three bytes of a group asked for lie below `3n`. -/
theorem SameReply.groupBytes_eq (h : SameReply b c) {i : Fin 3} (asked : i.val < b.wordCount) :
    b.groupHi i = c.groupHi i ∧ b.groupLo i = c.groupLo i ∧ b.groupSum i = c.groupSum i :=
  ⟨h.bytes ⟨3 * i.val, by omega⟩ (by dsimp only; omega), h.bytes ⟨3 * i.val + 1, by omega⟩ (by dsimp only; omega),
    h.bytes ⟨3 * i.val + 2, by omega⟩ (by dsimp only; omega)⟩

theorem SameReply.groupOk_eq (h : SameReply b c) {i : Fin 3} (asked : i.val < b.wordCount) : b.groupOk i = c.groupOk i := by
  obtain ⟨hi, lo, sum⟩ := h.groupBytes_eq asked
  simp [Block.groupOk, hi, lo, sum]

theorem SameReply.groupWord_eq (h : SameReply b c) {i : Fin 3} (asked : i.val < b.wordCount) :
    b.groupWord i = c.groupWord i := by
  obtain ⟨hi, lo, -⟩ := h.groupBytes_eq asked
  simp [Block.groupWord, hi, lo]

theorem SameReply.firstBadGroup_eq (h : SameReply b c) : b.firstBadGroup = c.firstBadGroup := by
  have same (i : Fin 3) :
      (decide (i.val < b.wordCount) && !b.groupOk i) = (decide (i.val < c.wordCount) && !c.groupOk i) := by
    rw [← h.wordCount_eq]
    by_cases asked : i.val < b.wordCount
    · rw [h.groupOk_eq asked]
    · simp [asked]
  exact congrArg (fun bad => [0, 1, 2].find? bad) (funext same)

/-- DECODE gives both the same words and the same status. -/
theorem SameReply.decodeReply_agrees (h : SameReply b c) :
    (decodeReply b).word = (decodeReply c).word ∧ (decodeReply b).status = (decodeReply c).status := by
  have words (i : Fin 3) : (if i.val < b.wordCount then b.groupWord i else 0) =
      if i.val < c.wordCount then c.groupWord i else 0 := by
    rw [← h.wordCount_eq]
    exact ite_congr rfl (fun asked => h.groupWord_eq asked) fun _ => rfl
  rw [decodeReply_eq, decodeReply_eq, h.replyLength_eq, h.wordCount_eq, h.firstBadGroup_eq]
  split
  · exact ⟨rfl, rfl⟩
  · split
    · exact ⟨rfl, rfl⟩
    · exact ⟨congrArg Vector.ofFn (funext words), congrArg (Status.mk .ok 0 true) h.count⟩

end Agreement

/-- DECODE looks at none of the registers it writes (41_frame_codec.md R114 to R119). -/
theorem decodeReply_congr_writes (b : Block) (f : Status) (ws : Vector Word 3) :
    decodeReply { b with status := f, word := ws } = decodeReply b := by
  have same : ({ b with status := f, word := ws } : Block).firstBadGroup = b.firstBadGroup := rfl
  rw [decodeReply_eq, decodeReply_eq, same]
  rfl

theorem decodeReply_idempotent (b : Block) : decodeReply (decodeReply b) = decodeReply b := by
  obtain ⟨res, info, d, n, ws, e⟩ := decodeReply_eq_writes b
  calc decodeReply (decodeReply b)
      = decodeReply (raise res info (setDecoded d n (setWords ws b))) := by rw [e]
    _ = decodeReply b := decodeReply_congr_writes b _ ws

theorem decodeReply_rxb (b : Block) : (decodeReply b).rxb = b.rxb := by
  obtain ⟨res, info, d, n, ws, e⟩ := decodeReply_eq_writes b
  simp [e]

/-- Settles O32: the groups asked for lie in the first `3n` bytes, and DECODE looks at nothing that it writes. -/
theorem decodeReadsOnlyItsGroups : Obligations.DecodeReadsOnlyItsGroups := by
  refine ⟨fun s s' count length bytes => ?_, fun s t he => ?_⟩
  · have same : SameReply s.block s'.block := ⟨count, length, bytes⟩
    exact ⟨_, _, rfl, rfl, same.decodeReply_agrees⟩
  · cases he
    exact ⟨decodeReply_rxb s.block, exec_decode_of_eq (decodeReply_idempotent s.block)⟩

/-! ### The groups of a reply as a byte span -/

/-- The groups a reply of `n` words has, in their order. -/
def groupIndices (n : Nat) : List (Fin 3) := (List.finRange 3).take n

/-- The three bytes of group `i` (41_frame_codec.md R114). -/
def Block.groupBytes (b : Block) (i : Fin 3) : List Byte := [b.groupHi i, b.groupLo i, b.groupSum i]

theorem wordCount_le (b : Block) : b.wordCount ≤ 3 := Nat.le_of_lt_succ b.wcnt.isLt

theorem length_groupIndices {n : Nat} (h : n ≤ 3) : (groupIndices n).length = n := by simp [groupIndices, h]

theorem groupIndices_getElem? {n : Nat} {i : Fin 3} (h : i.val < n) : (groupIndices n)[i.val]? = some i := by
  simp [groupIndices, h]

theorem mem_groupIndices {n : Nat} {i : Fin 3} : i ∈ groupIndices n ↔ i.val < n := by
  simp [groupIndices, List.mem_take_iff_getElem, Fin.ext_iff]

/-- A group asked for comes after the groups of lower index. -/
theorem groupIndices_split {n : Nat} {i : Fin 3} (h : i.val < n) :
    ∃ later, groupIndices n = groupIndices i.val ++ i :: later := by
  obtain ⟨inRange, value⟩ := List.getElem?_eq_some_iff.mp (groupIndices_getElem? h)
  have before : (groupIndices n).take i.val = groupIndices i.val := by
    rw [groupIndices, List.take_take, Nat.min_eq_left h.le, groupIndices]
  refine ⟨(groupIndices n).drop (i.val + 1), ?_⟩
  calc groupIndices n
      = (groupIndices n).take i.val ++ (groupIndices n).drop i.val := (List.take_append_drop _ _).symm
    _ = groupIndices i.val ++ i :: (groupIndices n).drop (i.val + 1) := by
        rw [before, List.drop_eq_getElem_cons inRange, value]

/-- RXB holds the bytes of three groups (41_frame_codec.md R114). -/
theorem rxb_toList (b : Block) : b.rxb.toList = b.groupBytes 0 ++ b.groupBytes 1 ++ b.groupBytes 2 := by
  apply List.ext_getElem
  · simp [Block.groupBytes]
  · intro k hk _
    have inRange : k < 9 := by simpa using hk
    interval_cases k <;> rfl

/-- A reply of the right length is its groups, one after the other (41_frame_codec.md R111). -/
theorem raw_eq_groups {b : Block} (len : b.replyLength = 3 * b.wordCount) :
    b.raw = (groupIndices b.wordCount).flatMap b.groupBytes := by
  have bound := wordCount_le b
  rw [Block.raw, rxb_toList, len]
  interval_cases b.wordCount <;> rfl

theorem decodeGroups_cons_of_pass {b : Block} {i : Fin 3} (pass : b.groupOk i = true) (k : Nat) (rest : List Byte) :
    decodeGroups k (b.groupBytes i ++ rest) = (decodeGroups (k + 1) rest).map (b.groupWord i :: ·) := by
  have sum : b.groupSum i = checksum [b.groupHi i, b.groupLo i] := (groupCheck_iff _ _ _).mp pass
  simp only [Block.groupBytes, List.cons_append, List.nil_append, decodeGroups, if_pos sum]
  cases decodeGroups (k + 1) rest <;> rfl

theorem decodeGroups_cons_of_bad {b : Block} {i : Fin 3} (bad : b.groupOk i = false) (k : Nat) (rest : List Byte) :
    decodeGroups k (b.groupBytes i ++ rest) = .error (.checksumError k) := by
  have sum : b.groupSum i ≠ checksum [b.groupHi i, b.groupLo i] := of_decide_eq_false bad
  simp [Block.groupBytes, decodeGroups, sum]

/-- `decode_words` of groups that all pass gives their words. -/
theorem decodeGroups_of_all_pass {b : Block} {is : List (Fin 3)} (pass : ∀ i ∈ is, b.groupOk i = true) (k : Nat) :
    decodeGroups k (is.flatMap b.groupBytes) = .ok (is.map b.groupWord) := by
  induction is generalizing k with
  | nil => rfl
  | cons i is ih =>
    obtain ⟨first, others⟩ := List.forall_mem_cons.mp pass
    rw [List.flatMap_cons, decodeGroups_cons_of_pass first, ih others]
    rfl

/-- `decode_words` fails at the first group that fails, with the number of groups before it. -/
theorem decodeGroups_of_first_bad {b : Block} {is : List (Fin 3)} {i : Fin 3} (earlier : ∀ j ∈ is, b.groupOk j = true)
    (bad : b.groupOk i = false) (later : List (Fin 3)) (k : Nat) :
    decodeGroups k ((is ++ i :: later).flatMap b.groupBytes) = .error (.checksumError (k + is.length)) := by
  induction is generalizing k with
  | nil => exact decodeGroups_cons_of_bad bad k _
  | cons j is ih =>
    obtain ⟨first, others⟩ := List.forall_mem_cons.mp earlier
    rw [List.cons_append, List.flatMap_cons, decodeGroups_cons_of_pass first, ih others, List.length_cons,
      Nat.add_right_comm, Nat.add_assoc]
    rfl

/-- A reply of the right length has the length that `decode_words` asks for (41_frame_codec.md R120). -/
theorem decodeWords_raw {b : Block} (len : b.replyLength = 3 * b.wordCount) :
    decodeWords b.raw b.wordCount = decodeGroups 0 ((groupIndices b.wordCount).flatMap b.groupBytes) := by
  have whole : b.raw.length = b.wordCount * 3 := by
    have bound := wordCount_le b
    simp only [Block.raw, List.length_take, Vector.length_toList, len]
    omega
  rw [decodeWords, if_pos whole, raw_eq_groups len]

theorem decodeWords_of_all_pass {b : Block} (len : b.replyLength = 3 * b.wordCount)
    (pass : ∀ i : Fin 3, i.val < b.wordCount → b.groupOk i = true) :
    decodeWords b.raw b.wordCount = .ok ((groupIndices b.wordCount).map b.groupWord) := by
  rw [decodeWords_raw len, decodeGroups_of_all_pass fun i hi => pass i (mem_groupIndices.mp hi)]

theorem decodeWords_of_first_bad {b : Block} {i : Fin 3} (len : b.replyLength = 3 * b.wordCount)
    (asked : i.val < b.wordCount) (bad : b.groupOk i = false) (earlier : ∀ j < i, b.groupOk j = true) :
    decodeWords b.raw b.wordCount = .error (.checksumError i.val) := by
  obtain ⟨later, parts⟩ := groupIndices_split asked
  rw [decodeWords_raw len, parts, decodeGroups_of_first_bad (fun j hj => earlier j (mem_groupIndices.mp hj)) bad,
    length_groupIndices i.isLt.le, Nat.zero_add]

/-! ### Agreement with the SCD4X functions -/

/-- Settles O45: the bytes to be sent are those of the encoders, and DECODE examines the groups in `decode_words`' order. -/
theorem codecAgreesWithScd4x : Obligations.CodecAgreesWithScd4x := by
  obtain ⟨encRdSends, encWrSends⟩ := outgoingFrameLayout
  refine ⟨fun s => ?_, fun s => ?_, fun s _ len => ⟨s.withBlock (decodeReply s.block), rfl, ?_⟩⟩
  · obtain ⟨t, he, sent⟩ := encRdSends s
    exact ⟨t, he, by simp [sent, encodeReadRequest, Block.opc], by simp [sent, encodeWrite, Block.opc]⟩
  · obtain ⟨t, he, sent⟩ := encWrSends s
    exact ⟨t, he, by simp [sent, encodeWrite, groupOf, Block.opc, Block.par]⟩
  · rw [withBlock_block]
    obtain ⟨ne, -⟩ | ⟨i, -, asked, bad, earlier, e⟩ | ⟨-, pass, e⟩ := decodeReply_cases s.block
    · exact absurd len ne
    · obtain ⟨words, dvalid, dcnt⟩ := decodeFail_no_data .crcMismatch (BitVec.ofNat 2 i.val) s.block
      have index : (BitVec.ofNat 2 i.val).toNat = i.val := Nat.mod_eq_of_lt (by omega)
      rw [e]
      exact .inr ⟨i.val, decodeWords_of_first_bad len asked bad earlier, rfl, index, dvalid, dcnt, words⟩
    · have count : (groupIndices s.block.wordCount).length = s.block.wordCount := length_groupIndices (wordCount_le _)
      rw [e]
      refine .inl ⟨_, decodeWords_of_all_pass len pass, rfl, ?_, fun i asked => ?_⟩
      · rw [List.length_map, count]; rfl
      · rw [List.getElem?_map, groupIndices_getElem? asked, decodeOk_word_getElem, if_pos asked]; rfl

/-- Settles O46: the group is PAR's bytes and their checksum, so it passes. -/
theorem encodedParameterDecodes : Obligations.EncodedParameterDecodes := by
  intro s t he u first second third len count
  cases he
  have length : u.block.replyLength = 3 * u.block.wordCount := by simp [Block.replyLength, Block.wordCount, len, count]
  have hi : u.block.groupHi 0 = s.block.parHi := first
  have lo : u.block.groupLo 0 = s.block.parLo := second
  have sum : u.block.groupSum 0 = checksum [s.block.parHi, s.block.parLo] := third
  have one : u.block.wordCount = 1 := by simp [Block.wordCount, count]
  have pass : ∀ i : Fin 3, i.val < u.block.wordCount → u.block.groupOk i = true := by
    intro i asked
    obtain rfl : i = 0 := by omega
    simp [Block.groupOk, hi, lo, sum]
  refine ⟨_, rfl, ?_⟩
  rw [withBlock_block, decodeReply_of_all_pass length pass]
  refine ⟨rfl, ?_⟩
  simpa [one, Block.groupWord, hi, lo, Block.par] using decodeOk_word_getElem u.block 0

end Sys2Proof.Machine
end

section
/-! PROOFS. NOP and the illegal control bytes (42_control.md R140, R141): what NOP does, the illegal terms outside their row
(log 7), and the frame of both, through what the port reads. -/

namespace Sys2Proof.Machine

/-- Settles O22: the meaning of NOP is the state it is given. -/
theorem nopChangesNothing : Obligations.NopChangesNothing := ⟨rfl, fun _ => rfl⟩

/-- Settles O53: the ILLEGAL_OP outcome is that of every term of the two rows, well formed or not. -/
theorem illegalTermsOutsideTheirRow : Obligations.IllegalTermsOutsideTheirRow :=
  ⟨fun _ s _ => exec_of_isIllegal rfl s, fun _ _ s _ => exec_of_isIllegal rfl s⟩

/-- A result shows at the address of STATUS (10_state.md R26) and at no other. -/
theorem regRead_raise_of_ne {a : Addr} (h : a ≠ addrOf .status) (res : Result) (n : BitVec 2) (b : Block) :
    regRead (raise res n b) a = regRead b a :=
  regRead_congr fun r hr => readReg_raise (by rintro rfl; exact h hr) res n b

/-- Settles O34: NOP answers the same state, and an illegal term leaves a result, which shows in STATUS alone. -/
theorem controlFrame : Obligations.ControlFrame := by
  obtain ⟨-, nopSame⟩ := nopChangesNothing
  refine ⟨fun s t he => ?nop, fun i s t hi he => ⟨?_, ?_, ?_, exec_surroundings he⟩⟩
  case nop =>
    cases (nopSame s).symm.trans he
    exact ⟨fun _ => rfl, rfl, rfl, rfl⟩
  all_goals cases (exec_of_isIllegal hi s).symm.trans he
  · exact fun a hs => regRead_raise_of_ne hs .illegalOp 0 s.block
  · exact raise_status_dvalid .illegalOp 0 s.block
  · exact raise_status_dcnt .illegalOp 0 s.block

end Sys2Proof.Machine
end

section
/-! PROOFS. The block never stops (60_exceptions.md R156), and so a step of one of several blocks always replaces that block
(R163; log 14). -/

namespace Sys2Proof.Machine

/-! ### Completion -/

theorem exec_completes (i : Instr) (s : State) : ∃ t, exec i s = .next t := by
  obtain ⟨b, e⟩ := exec_eq_withBlock i s
  exact ⟨_, e⟩

/-- Every event is accepted, whatever the level of the reset input. -/
theorem accept_completes (e : Event) (s : State) : ∃ t, accept e s = .next t := by
  cases e with
  | resetInput l => exact ⟨setResetInput l s, rfl⟩
  | access m x =>
    cases hr : s.resetAsserted with
    | true => exact ⟨accessInReset x s, by simp [accept, hr]⟩
    | false =>
      cases x with
      | read a => exact ⟨_, accept_read m a s⟩
      | write a v =>
        by_cases ha : a = ctrlAddr
        · obtain ⟨t, e⟩ := exec_completes (decodeByte v) { s with rdata := none }
          exact ⟨t, by rw [ha, accept_issue m v hr, e]⟩
        · exact ⟨{ s with rdata := none, block := regWriteData a v s.block }, by
            simp [accept, hr, portAccess, regWrite, ha, State.withBlock]⟩

theorem step_completes (s : State) : ∃ t, step s = .next t := by
  cases hp : s.port with
  | nil => exact ⟨s, step_idle s hp⟩
  | cons e rest => rw [step_cons s hp]; exact accept_completes e _

theorem run_completes (k : Nat) (s : State) : ∃ t, Sys2Proof.core.run k s = .next t := by
  induction k generalizing s with
  | zero => exact ⟨s, rfl⟩
  | succ k ih =>
    obtain ⟨u, hu⟩ := step_completes s
    rw [run_succ_of_step hu]
    exact ih u

/-- Settles O16: every event is accepted, and a run is one step after another. -/
theorem blockNeverStops : Obligations.BlockNeverStops := ⟨step_completes, run_completes⟩

/-! ### Several blocks -/

theorem stepOne_of_step {k : Nat} {sys : List State} {s t : State} (hs : sys[k]? = some s) (ht : step s = .next t) :
    stepOne k sys = sys.set k t := by simp [stepOne, hs, ht]

/-- A step of block `k` writes position `k` of the list at most: with no such block the list has no such position. -/
theorem stepOne_eq_set (k : Nat) (sys : List State) : ∃ t, stepOne k sys = sys.set k t := by
  cases hs : sys[k]? with
  | none =>
    have beyond : sys.length ≤ k := List.getElem?_eq_none_iff.mp hs
    exact ⟨State.reset, by simp [stepOne, hs, List.set_eq_of_length_le beyond]⟩
  | some s =>
    obtain ⟨t, ht⟩ := step_completes s
    exact ⟨t, stepOne_of_step hs ht⟩

/-- Settles O52: only position `k` of the list is written, and with what the step of the block there answers. -/
theorem blocksShareNothing : Obligations.BlocksShareNothing := by
  refine ⟨fun k sys s t hs ht => ?_, fun k j sys other => ?_, fun k sys => ?_⟩
  · have present : k < sys.length := (List.getElem?_eq_some_iff.mp hs).1
    rw [stepOne_of_step hs ht, List.getElem?_set_self present]
  · obtain ⟨t, e⟩ := stepOne_eq_set k sys
    rw [e, List.getElem?_set_ne other.symm]
  · obtain ⟨t, e⟩ := stepOne_eq_set k sys
    rw [e, List.length_set]

end Sys2Proof.Machine
end

section
/-! PROOFS. Which result a control byte reports (60_exceptions.md R150, R151, R153), and what changes the decoded words and
the fields of STATUS that speak of them (R155). -/

namespace Sys2Proof.Machine

/-! ### The result of each control byte -/

/-- The checksum and encode operations have the control bytes 1 to 5 (30_encoding.md R72). -/
theorem decodeByte_of_one_to_five : ∀ v : Byte, 1 ≤ v.toNat → v.toNat ≤ 5 →
    (decodeByte v = .crcInit ∨ decodeByte v = .crcByte ∨ decodeByte v = .crcWord) ∨
      (decodeByte v = .encRd ∨ decodeByte v = .encWr) := by decide

/-- The operations that cannot fail report OK (60_exceptions.md R150). -/
theorem exec_reports_ok {i : Instr} (h : (i = .crcInit ∨ i = .crcByte ∨ i = .crcWord) ∨ (i = .encRd ∨ i = .encWr))
    {s t : State} (he : exec i s = .next t) : t.block.status.res = .ok ∧ t.block.status.eidx = 0 := by
  obtain checksum | encode := h
  · obtain ⟨c, e⟩ := exec_checksum_eq checksum s
    cases e.symm.trans he
    exact ⟨rfl, rfl⟩
  · obtain ⟨bytes, len, e⟩ := exec_encode_eq encode s
    cases e.symm.trans he
    exact ⟨rfl, rfl⟩

/-- Settles O38: the illegal bytes and the operations that cannot fail have one result each, and DECODE has the three of its
ways to end. -/
theorem resultPriority : Obligations.ResultPriority := by
  intro v s
  obtain ⟨t, he⟩ := exec_completes (decodeByte v) s
  refine ⟨t, he, fun illegal => ?_, ?nop, fun least most => exec_reports_ok (decodeByte_of_one_to_five v least most) he,
    ?length, ?decode⟩
  · cases (exec_of_isIllegal ((decodeByte_isIllegal v).mpr illegal) s).symm.trans he
    exact ⟨rfl, rfl⟩
  case nop =>
    rintro rfl
    cases he
    rfl
  case length =>
    rintro rfl len
    cases (exec_decode_of_eq (decodeReply_of_length_ne len)).symm.trans he
    exact ⟨rfl, rfl⟩
  case decode =>
    rintro rfl len
    refine ⟨fun i asked bad earlier => ?_, fun pass => ?_⟩
    · cases (exec_decode_of_eq (decodeReply_of_first_bad len asked bad earlier)).symm.trans he
      have index : i.val < 2 ^ 2 := i.isLt.trans (by decide)
      exact ⟨rfl, Nat.mod_eq_of_lt index⟩
    · cases (exec_decode_of_eq (decodeReply_of_all_pass len pass)).symm.trans he
      exact ⟨rfl, rfl⟩

/-! ### What keeps the decoded words -/

/-- Two blocks hold the same decoded words and say the same of them (10_state.md R26, R34). -/
structure SameDecoded (b c : Block) : Prop where
  valid : c.status.dvalid = b.status.dvalid
  count : c.status.dcnt = b.status.dcnt
  words : c.word = b.word

theorem SameDecoded.refl (b : Block) : SameDecoded b b := ⟨rfl, rfl, rfl⟩

theorem exec_sameDecoded {i : Instr} (h : i ≠ .decode) {s t : State} (he : exec i s = .next t) :
    SameDecoded s.block t.block := by
  obtain ⟨-, rfl⟩ | ⟨c, rfl⟩ | ⟨-, rfl⟩ | ⟨-, rfl⟩ | ⟨decode, -⟩ | rfl := exec_cases he
  · exact .refl _
  · exact ⟨rfl, rfl, rfl⟩
  · exact ⟨rfl, rfl, rfl⟩
  · exact ⟨rfl, rfl, rfl⟩
  · exact absurd decode h
  · exact ⟨rfl, rfl, rfl⟩

theorem regWriteData_sameDecoded (a : Addr) (v : Byte) (b : Block) : SameDecoded b (regWriteData a v b) := by
  obtain ⟨r, -, e⟩ | ⟨-, e⟩ := regWriteData_cases a v b <;> rw [e]
  · exact ⟨by simp, by simp, by simp⟩
  · exact .refl b

/-- 0x06 is the only control byte of DECODE (30_encoding.md R72). -/
theorem eq_of_decodeByte_eq_decode {v : Byte} (h : decodeByte v = .decode) : v = 0x06 := by
  rw [← encode_decodeByte v, h]
  rfl

theorem accept_sameDecoded {e : Event} {s t : State} (ha : accept e s = .next t)
    (noDecode : ∀ m, e ≠ .access m (.write ctrlAddr 0x06)) (noReset : ∀ l, e ≠ .resetInput l) :
    SameDecoded s.block t.block := by
  obtain ⟨l, rfl, -⟩ | ⟨m, x, -, -, rfl⟩ | ⟨m, a, -, -, rfl⟩ | ⟨m, v, rfl, -, he⟩ | ⟨m, a, v, -, -, -, rfl⟩ :=
    accept_cases ha
  · exact absurd rfl (noReset l)
  · cases x <;> exact .refl _
  · exact .refl _
  · have other : decodeByte v ≠ .decode := fun h => noDecode m (by rw [eq_of_decodeByte_eq_decode h])
    exact exec_sameDecoded (s := { s with rdata := none }) other he
  · exact regWriteData_sameDecoded a v s.block

/-- Settles O40: of the events only the excluded ones reach DECODE or the reset values. -/
theorem decodedDataChangesOnlyAtDecodeOrReset : Obligations.DecodedDataChangesOnlyAtDecodeOrReset := by
  intro s t hs noDecode noReset
  obtain ⟨valid, count, words⟩ : SameDecoded s.block t.block := by
    cases hp : s.port with
    | nil => rw [step_idle s hp] at hs; cases hs; exact .refl _
    | cons e rest =>
      rw [step_cons s hp] at hs
      simp only [hp, List.head?_cons, ne_eq, Option.some.injEq] at noDecode noReset
      exact accept_sameDecoded (s := { s with port := rest }) hs noDecode noReset
  exact ⟨valid, count, words⟩

end Sys2Proof.Machine
end

section
/-! PROOFS. The delivery of a reply by the bus controller (60_exceptions.md R165). -/

namespace Sys2Proof.Machine

/-- What the writes `loadRxb i bytes` leave in RXB. -/
def storeRxb : Nat → List Byte → Vector Byte 9 → Vector Byte 9
  | _, [], rxb => rxb
  | i, v :: vs, rxb => if h : i < 9 then storeRxb (i + 1) vs (rxb.set i v) else rxb

/-- The bytes stand in the registers from number `i` on, as far as there are both. -/
theorem storeRxb_getElem (bytes : List Byte) (i : Nat) (rxb : Vector Byte 9) {j : Nat} (hj : j < 9) :
    (storeRxb i bytes rxb)[j] = if i ≤ j then bytes.getD (j - i) rxb[j] else rxb[j] := by
  induction bytes generalizing i rxb with
  | nil => simp [storeRxb]
  | cons v vs ih =>
    by_cases hi : i < 9
    · rw [storeRxb, dif_pos hi, ih]
      obtain before | rfl | after := Nat.lt_trichotomy j i
      · have apart : i ≠ j := by omega
        rw [if_neg (by omega), if_neg (by omega), Vector.getElem_set_ne _ _ apart]
      · simp
      · have apart : i ≠ j := by omega
        have next : j - i = (j - (i + 1)) + 1 := by omega
        rw [if_pos (by omega), if_pos (by omega), Vector.getElem_set_ne _ _ apart, next, List.getD_cons_succ]
    · have beyond : ¬i ≤ j := by omega
      rw [storeRxb, dif_neg hi, if_neg beyond]

/-- The block after its RXB registers from number `i` on were loaded with the bytes and RXLEN was written. -/
def Block.loaded (i : Nat) (bytes : List Byte) (len : Byte) (b : Block) : Block :=
  { b with rxb := storeRxb i bytes b.rxb, rxlen := len.extractLsb' 0 4 }

/-- The write of register `i` comes first, and the rest of the load goes on from there. -/
theorem loaded_cons {i : Nat} (hi : i < 9) (v : Byte) (vs : List Byte) (len : Byte) (b : Block) :
    b.loaded i (v :: vs) len = (writeReg v b (.rxb ⟨i, hi⟩)).loaded (i + 1) vs len := by
  simp [Block.loaded, storeRxb, writeReg, hi]

/-- Serving the writes from RXB register `i` on and then the one of RXLEN, whatever is served after them. -/
theorem serve_loadRxb (m : Master) (len : Byte) (es : List Event) (bytes : List Byte) (i : Nat) {s : State}
    (hr : s.resetAsserted = false) :
    serve (eventsOf m (loadRxb i bytes ++ [.write (addrOf .rxlen) len]) ++ es) s =
      serve es { s with rdata := none, block := s.block.loaded i bytes len } := by
  induction bytes generalizing i s with
  | nil => exact serve_write m .rxlen nofun len es s hr
  | cons v vs ih =>
    by_cases hi : i < 9
    · have first : loadRxb i (v :: vs) = .write (addrOf (.rxb ⟨i, hi⟩)) v :: loadRxb (i + 1) vs := dif_pos hi
      rw [first, loaded_cons hi]
      exact (serve_write m (.rxb ⟨i, hi⟩) nofun v _ s hr).trans (ih (i + 1) hr)
    · have full : loadRxb i (v :: vs) = [] := dif_neg hi
      have same : s.block.loaded i (v :: vs) len = writeReg len s.block .rxlen := by
        simp [Block.loaded, storeRxb, writeReg, hi]
      rw [full, same]
      exact serve_write m .rxlen nofun len es s hr

/-- Serving the accesses that deliver a reply, whatever is served after them. -/
theorem serve_loadReply (m : Master) (bytes : List Byte) (es : List Event) {s : State} (hr : s.resetAsserted = false) :
    serve (eventsOf m (loadReply bytes) ++ es) s =
      serve es { s with rdata := none, block := s.block.loaded 0 bytes (BitVec.ofNat 8 bytes.length) } :=
  serve_loadRxb m _ es bytes 0 hr

theorem loaded_rxb_getElem (bytes : List Byte) (len : Byte) (b : Block) (i : Fin 9) :
    (b.loaded 0 bytes len).rxb[i] = bytes.getD i.val b.rxb[i] :=
  (storeRxb_getElem bytes 0 b.rxb i.isLt).trans (if_pos (Nat.zero_le _))

/-- RXLEN has room for the length of a reply that RXB has room for. -/
theorem loaded_rxlen_toNat {n : Nat} (h : n ≤ 9) (bytes : List Byte) (b : Block) :
    (b.loaded 0 bytes (BitVec.ofNat 8 n)).rxlen.toNat = n := by
  simp only [Block.loaded, BitVec.extractLsb'_toNat, BitVec.toNat_ofNat, Nat.shiftRight_zero]
  omega

/-- Settles O47: the served writes leave RXB loaded with the bytes and RXLEN with their number. -/
theorem replyDelivery : Obligations.ReplyDelivery := by
  intro m bytes s most hr
  have served := serve_loadReply m bytes [] hr
  rw [List.append_nil, serve_nil] at served
  exact ⟨_, served, rfl, loaded_rxlen_toNat most bytes s.block, loaded_rxb_getElem bytes _ s.block, rfl⟩

end Sys2Proof.Machine
end

section
/-! PROOFS. Reset (70_reset_and_hazards.md section 1: R180 to R182) and that every operation completes (R183). -/

namespace Sys2Proof.Machine

/-! ### The reset values -/

/-- Settles O1: each element of the reset block is the value that R181 names. -/
theorem resetValues : Obligations.ResetValues := by
  refine ⟨rfl, rfl, rfl, rfl, rfl, rfl, rfl, rfl, rfl, rfl, rfl, rfl, rfl, rfl, fun i => ?txb, fun i => ?rxb,
    fun i => ?word, rfl⟩
  all_goals exact Vector.getElem_replicate i.isLt

/-- Settles O3: no group is asked for, so DECODE succeeds and every word is past the count; ENC_RD sends the reset OPC. -/
theorem resetStateDecodesNothing : Obligations.ResetStateDecodesNothing := by
  have noneAsked (i : Fin 3) : ¬i.val < Block.reset.wordCount := Nat.not_lt_zero _
  have success : decodeReply State.reset.block = decodeOk Block.reset :=
    decodeReply_of_all_pass rfl fun i asked => absurd asked (noneAsked i)
  obtain ⟨encRdSends, -⟩ := outgoingFrameLayout
  exact ⟨⟨_, exec_decode_of_eq success, rfl, rfl, rfl,
    fun i => (decodeOk_word_getElem Block.reset i).trans (if_neg (noneAsked i))⟩, encRdSends State.reset⟩

/-! ### The reset input -/

/-- A change of the reset input that asserts it, or is made while it is asserted, gives every element its reset value
(70_reset_and_hazards.md R180). -/
theorem setResetInput_of_asserted {s : State} {l : Bool} (h : l = true ∨ s.resetAsserted = true) :
    setResetInput l s = { s with block := Block.reset, resetAsserted := l, rdata := none } := by
  have either : (l || s.resetAsserted) = true := by simpa using h
  exact if_pos either

/-- The next pending change of the reset input, when it asserts the input or is made while that is asserted. -/
theorem step_resetInput {s : State} {l : Bool} {rest : List Event} (h : l = true ∨ s.resetAsserted = true)
    (hp : s.port = .resetInput l :: rest) :
    step s = .next { block := Block.reset, resetAsserted := l, port := rest, rdata := none } := by
  rw [step_cons s hp, accept, setResetInput_of_asserted (s := { s with port := rest }) h]

/-- An access made during reset changes no element of the block (log 4). -/
@[simp] theorem accessInReset_block (x : Access) (s : State) : (accessInReset x s).block = s.block := by
  cases x <;> rfl

/-- While the reset input is asserted no event takes the block out of its reset values, the release included. -/
theorem accept_keeps_blockReset {e : Event} {s t : State} (asserted : s.resetAsserted = true)
    (held : s.block = Block.reset) (ha : accept e s = .next t) : t.block = Block.reset := by
  cases e with
  | resetInput l =>
    rw [accept, setResetInput_of_asserted (.inr asserted)] at ha
    cases ha
    rfl
  | access m x =>
    rw [accept, if_pos asserted] at ha
    cases ha
    exact (accessInReset_block x s).trans held

theorem step_keeps_blockReset {s t : State} (asserted : s.resetAsserted = true) (held : s.block = Block.reset)
    (hs : step s = .next t) : t.block = Block.reset := by
  cases hp : s.port with
  | nil => rw [step_idle s hp] at hs; cases hs; exact held
  | cons e rest =>
    rw [step_cons s hp] at hs
    exact accept_keeps_blockReset (s := { s with port := rest }) asserted held hs

/-- Settles O2: the assertion does not look at the state it finds, so neither at what an access before it left. -/
theorem resetInputForcesResetValues : Obligations.ResetInputForcesResetValues := by
  refine ⟨fun s rest hp => step_resetInput (.inl rfl) hp, fun s asserted held => ?during,
    fun s rest asserted hp => step_resetInput (.inr asserted) hp, fun s m x => ?before⟩
  case during =>
    obtain ⟨t, hs⟩ := step_completes s
    exact ⟨t, hs, step_keeps_blockReset asserted held hs⟩
  case before =>
    obtain ⟨u, hu⟩ := accept_completes (.access m x) s
    have assertion : accept (.resetInput true) u = .next (setResetInput true u) := rfl
    exact ⟨setResetInput true u, (serve_cons hu).trans (serve_cons assertion), rfl, rfl⟩

/-! ### Completion of the operations -/

/-- Settles O15: an operation answers the state with another block. -/
theorem everyOperationCompletes : Obligations.EveryOperationCompletes := by
  intro i s
  obtain ⟨t, he⟩ := exec_completes i s
  exact ⟨t, he, exec_surroundings he⟩

end Sys2Proof.Machine
end

section
/-! PROOFS. The transactions of the host (70_reset_and_hazards.md section 3): requests (R185 to R187), replies (R185, R187)
and the data-ready test (R191). -/

namespace Sys2Proof.Machine

/-- The issue of a well-formed operation after which nothing more is served. -/
theorem serve_issue_last (m : Master) {i : Instr} (hw : i.wellFormed = true) {s : State} (hr : s.resetAsserted = false) :
    serve (eventsOf m [issueAccess i]) s = exec i { s with rdata := none } := by
  obtain ⟨t, he⟩ := exec_completes i { s with rdata := none }
  exact (serve_issue m i [] hr (decodeByte_encode hw) he).trans he.symm

/-! ### Requests -/

/-- The block with its register pair OPC holding a word (10_state.md R27). -/
def Block.withOpc (w : Word) (b : Block) : Block := { b with opcHi := hiByte w, opcLo := loByte w }

/-- The block with its register pair PAR holding a word (10_state.md R28). -/
def Block.withPar (w : Word) (b : Block) : Block := { b with parHi := hiByte w, parLo := loByte w }

@[simp] theorem withOpc_opc (w : Word) (b : Block) : (b.withOpc w).opc = w := wordOf_bytes w
@[simp] theorem withPar_opc (w : Word) (b : Block) : (b.withPar w).opc = b.opc := rfl
@[simp] theorem withPar_par (w : Word) (b : Block) : (b.withPar w).par = w := wordOf_bytes w

/-- The writes of OPC, whatever is served after them. -/
theorem serve_loadOpc (m : Master) (w : Word) (es : List Event) {s : State} (hr : s.resetAsserted = false) :
    serve (eventsOf m (loadOpc w) ++ es) s = serve es { s with rdata := none, block := s.block.withOpc w } :=
  (serve_write m .opcHi nofun (hiByte w) _ s hr).trans (serve_write m .opcLo nofun (loByte w) es _ hr)

/-- The writes of PAR, whatever is served after them. -/
theorem serve_loadPar (m : Master) (w : Word) (es : List Event) {s : State} (hr : s.resetAsserted = false) :
    serve (eventsOf m (loadPar w) ++ es) s = serve es { s with rdata := none, block := s.block.withPar w } :=
  (serve_write m .parHi nofun (hiByte w) _ s hr).trans (serve_write m .parLo nofun (loByte w) es _ hr)

/-- A request with no parameter is ENC_RD with OPC written (70_reset_and_hazards.md R185). -/
theorem serve_requestRead (opcode : Word) {s : State} (hr : s.resetAsserted = false) :
    serve (requestRead opcode) s = exec .encRd { s with rdata := none, block := s.block.withOpc opcode } :=
  (serve_loadOpc .host opcode (eventsOf .host [issueAccess .encRd]) hr).trans (serve_issue_last .host rfl hr)

/-- A request with a parameter is ENC_WR with OPC and PAR written (70_reset_and_hazards.md R186). -/
theorem serve_requestWrite (opcode param : Word) {s : State} (hr : s.resetAsserted = false) :
    serve (requestWrite opcode param) s =
      exec .encWr { s with rdata := none, block := (s.block.withOpc opcode).withPar param } := by
  have issue := serve_issue_last .host (i := .encWr) rfl
    (s := { s with rdata := none, block := (s.block.withOpc opcode).withPar param }) hr
  have par := serve_loadPar .host param (eventsOf .host [issueAccess .encWr])
    (s := { s with rdata := none, block := s.block.withOpc opcode }) hr
  exact (serve_loadOpc .host opcode _ hr).trans (par.trans issue)

/-- Settles O49: the encode operations agree with the SCD4X encoder, and OPC and PAR hold the words of the request. -/
theorem requestLeavesFrame : Obligations.RequestLeavesFrame := by
  obtain ⟨encRdAgrees, encWrAgrees, -⟩ := codecAgreesWithScd4x
  refine ⟨fun opcode s hr => ?_, fun opcode param s hr => ?_⟩
  · obtain ⟨t, he, -, sent⟩ := encRdAgrees { s with rdata := none, block := s.block.withOpc opcode }
    obtain ⟨port, -, -⟩ := exec_surroundings he
    exact ⟨t, (serve_requestRead opcode hr).trans he, port, by simpa using sent⟩
  · obtain ⟨t, he, sent⟩ := encWrAgrees { s with rdata := none, block := (s.block.withOpc opcode).withPar param }
    obtain ⟨port, -, -⟩ := exec_surroundings he
    exact ⟨t, (serve_requestWrite opcode param hr).trans he, port, by simpa using sent⟩

/-! ### Replies -/

theorem length_encodeReply (ws : List Word) : (encodeReply ws).length = 3 * ws.length := by
  induction ws with
  | nil => rfl
  | cons w ws ih => simp [encodeReply, groupOf, wordBytes, ih]; omega

/-- Word `i` of a reply stands in the bytes from `3i` on, high byte first, and then its checksum (41_frame_codec.md R111). -/
theorem encodeReply_getElem? {ws : List Word} {i : Nat} {w : Word} (h : ws[i]? = some w) :
    (encodeReply ws)[3 * i]? = some (hiByte w) ∧ (encodeReply ws)[3 * i + 1]? = some (loByte w) ∧
      (encodeReply ws)[3 * i + 2]? = some (checksum [hiByte w, loByte w]) := by
  induction ws generalizing i with
  | nil => cases h
  | cons first ws ih =>
    cases i with
    | zero => cases h; exact ⟨rfl, rfl, rfl⟩
    | succ i => exact ih h

/-- The block when DECODE is issued: the reply delivered, and then WCNT written (70_reset_and_hazards.md R185). -/
def Block.received (bytes : List Byte) (n : Byte) (b : Block) : Block :=
  writeReg n (b.loaded 0 bytes (BitVec.ofNat 8 bytes.length)) .wcnt

/-- The reply part of a transaction is DECODE of the block that received the reply. -/
theorem serve_receiveReply (bytes : List Byte) (n : Byte) {s : State} (hr : s.resetAsserted = false) :
    serve (receiveReply bytes n) s =
      .next { s with rdata := none, block := decodeReply (s.block.received bytes n) } := by
  have issue := serve_issue_last .host (i := .decode) rfl
    (s := { s with rdata := none, block := s.block.received bytes n }) hr
  have wcnt := serve_write .host .wcnt nofun n (eventsOf .host [issueAccess .decode])
    { s with rdata := none, block := s.block.loaded 0 bytes (BitVec.ofNat 8 bytes.length) } hr
  exact (serve_loadReply .busController bytes _ hr).trans (wcnt.trans issue)

theorem received_wordCount {n : Nat} (h : n ≤ 3) (bytes : List Byte) (b : Block) :
    (b.received bytes (BitVec.ofNat 8 n)).wordCount = n := by
  simp only [Block.received, writeReg, Block.wordCount, BitVec.extractLsb'_toNat, BitVec.toNat_ofNat, Nat.shiftRight_zero]
  omega

theorem received_replyLength {bytes : List Byte} (h : bytes.length ≤ 9) (n : Byte) (b : Block) :
    (b.received bytes n).replyLength = bytes.length := loaded_rxlen_toNat h bytes b

theorem received_rxb_getElem {bytes : List Byte} {k : Fin 9} {v : Byte} (h : bytes[k.val]? = some v) (n : Byte)
    (b : Block) : (b.received bytes n).rxb[k] = v := by
  have stored := loaded_rxb_getElem bytes (BitVec.ofNat 8 bytes.length) b k
  rwa [List.getD_eq_getElem?_getD, h] at stored

section Received

variable {ws : List Word} {i : Fin 3} {w : Word} (present : ws[i.val]? = some w) (n : Byte) (b : Block)
include present

/-- The group of a received word holds its two bytes and their checksum. -/
theorem received_groupBytes : (b.received (encodeReply ws) n).groupHi i = hiByte w ∧
    (b.received (encodeReply ws) n).groupLo i = loByte w ∧
    (b.received (encodeReply ws) n).groupSum i = checksum [hiByte w, loByte w] := by
  obtain ⟨hi, lo, sum⟩ := encodeReply_getElem? present
  exact ⟨received_rxb_getElem (k := ⟨3 * i.val, by omega⟩) hi n b,
    received_rxb_getElem (k := ⟨3 * i.val + 1, by omega⟩) lo n b,
    received_rxb_getElem (k := ⟨3 * i.val + 2, by omega⟩) sum n b⟩

theorem received_groupOk : (b.received (encodeReply ws) n).groupOk i = true := by
  obtain ⟨hi, lo, sum⟩ := received_groupBytes present n b
  simp [Block.groupOk, hi, lo, sum]

theorem received_groupWord : (b.received (encodeReply ws) n).groupWord i = w := by
  obtain ⟨hi, lo, -⟩ := received_groupBytes present n b
  simp [Block.groupWord, hi, lo]

end Received

/-- Settles O48: the length fits and every group asked for passes, so DECODE succeeds with the word of each group. -/
theorem receivedReplyGivesItsWords : Obligations.ReceivedReplyGivesItsWords := by
  intro ws s most hr
  have served := serve_receiveReply (encodeReply ws) (BitVec.ofNat 8 ws.length) hr
  have count := received_wordCount most (encodeReply ws) s.block
  have fits : (encodeReply ws).length ≤ 9 := by rw [length_encodeReply]; omega
  have length := received_replyLength fits (BitVec.ofNat 8 ws.length) s.block
  rw [length_encodeReply, ← count] at length
  have success := decodeReply_of_all_pass length fun i asked =>
    received_groupOk (List.getElem?_eq_getElem (count ▸ asked)) _ s.block
  rw [success] at served
  refine ⟨_, served, rfl, rfl, rfl, rfl, count, fun i => ?_⟩
  rw [decodeOk_word_getElem, count, List.getD_eq_getElem?_getD]
  by_cases asked : i.val < ws.length
  · have present := List.getElem?_eq_getElem asked
    rw [if_pos asked, received_groupWord present, present, Option.getD_some]
  · rw [if_neg asked, List.getElem?_eq_none (Nat.le_of_not_lt asked), Option.getD_none]

/-! ### The data-ready test -/

theorem dataReady_eq_false_iff (w mask : Word) : dataReady w mask = false ↔ w &&& mask = 0 := by simp [dataReady]

/-- Settles O50: the low 12 bits are a remainder, and a word is 0 when each of its bits is. -/
theorem dataReadyTest : Obligations.DataReadyTest := by
  refine ⟨fun w => ?_, fun w mask => ?_⟩
  · have low : (w &&& Config.dataReadyMask).toNat = w.toNat % 4096 :=
      (BitVec.toNat_and w _).trans (Nat.and_two_pow_sub_one_eq_mod w.toNat 12)
    rw [dataReady_eq_false_iff, ← low]
    exact BitVec.toNat_inj.symm
  · rw [dataReady_eq_false_iff, BitVec.eq_of_getLsbD_eq_iff]
    refine forall₂_congr fun i _ => ?_
    rw [BitVec.getLsbD_and]
    cases w.getLsbD i <;> simp

end Sys2Proof.Machine
end
